-- ==== Sys2Proof/Config.lean ====
section
/-! DEFINITION. What an implementation of the block fixes (spec/00_scope.md rule R6) and what the
spec leaves open as a parameter (92_eei_decisions.md D20, D23). Numbers are the spec's values;
an open parameter is an opaque constant, about which nothing can be proved. -/

namespace Sys2Proof

/-- The implementation parameters that rule R6 asks a model to take as configuration fields. -/
structure Config where
  /-- `W`: bits of a register value, a memory word, an operand and an address (D1). -/
  W : Nat
  /-- `QCAP`: how many instructions the queue holds (D19). -/
  QCAP : Nat
  /-- `CW`: bits of `cycle_count` and `dropped_count` (D10). -/
  CW : Nat
  deriving DecidableEq, Repr

/-- The values rule R6 gives. -/
abbrev config : Config := { W := 32, QCAP := 16, CW := 32 }

/-- `NREG` (R6): the number of general registers, fixed by the 3-bit fields of rule R72. -/
abbrev NREG : Nat := 8

/-- `NMEM` (R6): the number of data-memory words, fixed by the 3-bit `mem_addr` of rule R236. -/
abbrev NMEM : Nat := 8

/-- The word the text loader presents for an integer that does not fit in `W` bits: the spec
leaves it to the loader (R232; open parameter `TEXT_SYNTAX`, D23). A free value, log entry 5. -/
opaque Config.unfitTextWord : Int → BitVec config.W

end Sys2Proof
end

