-- ==== Sys2Proof/Word.lean ====
section
/-! DEFINITION. The word type of spec/00_scope.md rule R7 and the small index types. -/

namespace Sys2Proof

/-- A word (R7): a `W`-bit vector. `+` and `-` are modulo 2^W, `&&&` and `|||` act bit by bit. -/
abbrev Word := BitVec config.W

/-- A counter of `CW` bits (R36, R37). -/
abbrev Counter := BitVec config.CW

/-- A register index 0-7 (R74): every value names a register. -/
abbrev RegIdx := Fin NREG

/-- A data-memory word address 0-7 as the 3-bit `mem_addr` port carries it (R236). -/
abbrev MemIdx := Fin NMEM

/-- The instruction word of the program-push port (R72). -/
abbrev InstrWord := BitVec 12

/-- `signed(v)` of rule R7: the two's-complement integer value. -/
abbrev Word.signed (v : Word) : Int := v.toInt

/-- `unsigned(v)` of rule R7. -/
abbrev Word.unsigned (v : Word) : Nat := v.toNat

end Sys2Proof
end

