-- ==== Sys2Proof/Syntax.lean ====
section
/-! DEFINITION. The instruction record of spec/30_encoding.md rule R71, one constructor per row of
the opcode table, and the token form of the loader's text lines (R79-R81). -/

namespace Sys2Proof

/-- The five opcodes (R71, R73), in the order the spec lists them. -/
inductive Opcode where
  | add | sub | and | or | ld
  deriving DecidableEq, Repr

/-- The load class is LD alone; every other opcode is of the ALU class (R76). -/
def Opcode.isLoad : Opcode → Bool
  | .ld => true
  | .add | .sub | .and | .or => false

/-- An instruction: opcode, destination `rd`, first source `rs` and second source `rt` (R71). -/
inductive Instr where
  /-- ADD, `<ADD,Rd,Rs,Rt>` (R151). -/
  | add (rd rs rt : RegIdx)
  /-- SUB, `<SUB,Rd,Rs,Rt>` (R152). -/
  | sub (rd rs rt : RegIdx)
  /-- AND, `<AND,Rd,Rs,Rt>` (R153). -/
  | and (rd rs rt : RegIdx)
  /-- OR, `<OR,Rd,Rs,Rt>` (R154). -/
  | or (rd rs rt : RegIdx)
  /-- LD, `<LD,Rd,Rs,Rt>` (R170). -/
  | ld (rd rs rt : RegIdx)
  deriving DecidableEq, Repr

/-- The record's `op` field (R71). -/
def Instr.op : Instr → Opcode
  | .add _ _ _ => .add
  | .sub _ _ _ => .sub
  | .and _ _ _ => .and
  | .or _ _ _ => .or
  | .ld _ _ _ => .ld

/-- The record's destination register (R71). -/
def Instr.rd : Instr → RegIdx
  | .add d _ _ | .sub d _ _ | .and d _ _ | .or d _ _ | .ld d _ _ => d

/-- The record's source register 1 (R71). -/
def Instr.rs : Instr → RegIdx
  | .add _ a _ | .sub _ a _ | .and _ a _ | .or _ a _ | .ld _ a _ => a

/-- The record's source register 2 (R71). -/
def Instr.rt : Instr → RegIdx
  | .add _ _ b | .sub _ _ b | .and _ _ b | .or _ _ b | .ld _ _ b => b

/-- The instruction with the given record fields (R71). -/
def Instr.ofFields : Opcode → RegIdx → RegIdx → RegIdx → Instr
  | .add, d, a, b => .add d a b
  | .sub, d, a, b => .sub d a b
  | .and, d, a, b => .and d a b
  | .or, d, a, b => .or d a b
  | .ld, d, a, b => .ld d a b

/-- A program line as tokens (R79): the opcode the first token names, if it names one, and the
numbers of the register names after it. -/
structure ProgLine where
  opcode : Option Opcode
  regs   : List Nat
  deriving DecidableEq, Repr

/-- A register-initialisation line as tokens (R80): the register number and the values after it. -/
structure RegLine where
  reg    : Nat
  values : List Int
  deriving DecidableEq, Repr

/-- A memory-initialisation line as tokens (R81): the address and the values after it. -/
structure MemLine where
  addr   : Nat
  values : List Int
  deriving DecidableEq, Repr

end Sys2Proof
end

