-- ==== Sys2Proof/WellFormed.lean ====
section
/-! DEFINITION. Which text lines are well formed (spec/30_encoding.md R79-R82). An instruction
itself needs no check: its register fields are indices 0-7 by type and every combination is legal
(R74, R78), so `Instr` holds well-formed instructions only. -/

namespace Sys2Proof

/-- A program line is well formed when its opcode is recognised, it has three register names and
each is one of `R0`-`R7` (R79, R82). -/
def ProgLine.wellFormed (l : ProgLine) : Bool :=
  l.opcode.isSome && l.regs.length == 3 && l.regs.all (· < NREG)

/-- A register line is well formed when it names one of `R0`-`R7` and gives one value (R80, R82). -/
def RegLine.wellFormed (l : RegLine) : Bool :=
  decide (l.reg < NREG) && l.values.length == 1

/-- A memory line is well formed when its address is 0-7 and it gives one value (R81, R82). -/
def MemLine.wellFormed (l : MemLine) : Bool :=
  decide (l.addr < NMEM) && l.values.length == 1

end Sys2Proof
end

