-- ==== Sys2Proof/Decode.lean ====
section
/-! DEFINITION. The 12-bit instruction word (spec/30_encoding.md R72-R78): decoder, encoder, and the
reading of a text line as an instruction (R79, R82). -/

namespace Sys2Proof

/-- Why a word is no instruction. -/
inductive DecodeError where
  /-- `op` is 0b101, 0b110 or 0b111 (R77): the word is reserved and spells no instruction. -/
  | reservedOpcode (op : BitVec 3)
  deriving DecidableEq, Repr

/-- The opcode number of rule R73. -/
def Opcode.bits : Opcode → BitVec 3
  | .add => 0b000
  | .sub => 0b001
  | .and => 0b010
  | .or  => 0b011
  | .ld  => 0b100

/-- The opcode of an `op` field (R73), none for the three reserved numbers (R77). -/
def Opcode.ofBits (b : BitVec 3) : Option Opcode :=
  if b = 0b000 then some .add
  else if b = 0b001 then some .sub
  else if b = 0b010 then some .and
  else if b = 0b011 then some .or
  else if b = 0b100 then some .ld
  else none

/-- The register a 3-bit field names (R74). -/
def regOfBits (b : BitVec 3) : RegIdx := b.toFin

/-- The 3-bit field that names a register (R74). -/
def regBits (r : RegIdx) : BitVec 3 := BitVec.ofFin r

/-- Bits `[11:9]` (R72). -/
def opField (w : InstrWord) : BitVec 3 := w.extractLsb' 9 3

/-- Bits `[8:6]` (R72). -/
def rdField (w : InstrWord) : BitVec 3 := w.extractLsb' 6 3

/-- Bits `[5:3]` (R72). -/
def rsField (w : InstrWord) : BitVec 3 := w.extractLsb' 3 3

/-- Bits `[2:0]` (R72). -/
def rtField (w : InstrWord) : BitVec 3 := w.extractLsb' 0 3

/-- The decoder (R72-R77). -/
def decode (w : InstrWord) : Except DecodeError Instr :=
  match Opcode.ofBits (opField w) with
  | some op =>
    .ok (Instr.ofFields op (regOfBits (rdField w)) (regOfBits (rsField w)) (regOfBits (rtField w)))
  | none => .error (.reservedOpcode (opField w))

/-- The encoder: `op ++ rd ++ rs ++ rt` (R72). -/
def encode (i : Instr) : InstrWord :=
  i.op.bits ++ regBits i.rd ++ regBits i.rs ++ regBits i.rt

/-- A row of the opcode table (R73): an instruction word `w` is the row's when `w` under the mask
is the row's match. -/
structure OpcodeRow where
  opcode : Opcode
  pattern : InstrWord
  mask : InstrWord
  deriving DecidableEq, Repr

/-- The opcode table of rule R73. -/
def opcodeTable : List OpcodeRow :=
  [ { opcode := .add, pattern := 0x000, mask := 0xE00 },
    { opcode := .sub, pattern := 0x200, mask := 0xE00 },
    { opcode := .and, pattern := 0x400, mask := 0xE00 },
    { opcode := .or,  pattern := 0x600, mask := 0xE00 },
    { opcode := .ld,  pattern := 0x800, mask := 0xE00 } ]

/-- The decoder on a word numbered as the opcode table numbers it. An instruction has one 12-bit
word, so the table's numbering is the word's own (R72); a number of more than 12 bits is no word. -/
def decodeTableWord (_nbits w : Nat) : Option Instr :=
  if w < 2 ^ 12 then
    match decode (BitVec.ofNat 12 w) with
    | .ok i => some i
    | .error _ => none
  else none

/-- The register a text register number names, if it is one of `R0`-`R7`. -/
def regOfNumber (n : Nat) : Option RegIdx :=
  if h : n < NREG then some ⟨n, h⟩ else none

/-- The instruction a program line spells; none for a malformed line, which is skipped
(R79, R82). -/
def ProgLine.instr? (l : ProgLine) : Option Instr :=
  match l.opcode, l.regs with
  | some op, [d, a, b] =>
    match regOfNumber d, regOfNumber a, regOfNumber b with
    | some rd, some rs, some rt => some (Instr.ofFields op rd rs rt)
    | _, _, _ => none
  | _, _ => none

/-- The word presented for an integer of a text line: its two's-complement word where it fits in
`W` bits (R7), the loader's own choice where it does not (R232; log entry 5). -/
def textWord (v : Int) : Word :=
  if -(2 : Int) ^ (config.W - 1) ≤ v ∧ v < (2 : Int) ^ (config.W - 1) then BitVec.ofInt config.W v
  else Config.unfitTextWord v

/-- The register and value of a register line, none for a malformed line (R80, R82). -/
def RegLine.init? (l : RegLine) : Option (RegIdx × Word) :=
  match l.values with
  | [v] => if h : l.reg < NREG then some (⟨l.reg, h⟩, textWord v) else none
  | _ => none

/-- The address and value of a memory line, none for a malformed line (R81, R82). -/
def MemLine.init? (l : MemLine) : Option (MemIdx × Word) :=
  match l.values with
  | [v] => if h : l.addr < NMEM then some (⟨l.addr, h⟩, textWord v) else none
  | _ => none

end Sys2Proof
end

