-- ==== Sys2Proof/Machine/State.lean ====
section
/-! DEFINITION. The machine state: the tuple of spec/10_state.md rule R20, with the reset values of
rule R39, and the values the host will present at the coming clock edges (R236), which are the
model's own field (log entry 1). -/

namespace Sys2Proof.Machine

open Sys2Proof

/-- One general register (R21): its value and its busy flag. -/
structure Reg where
  value : Word
  busy  : Bool
  deriving DecidableEq, Repr

/-- The register file (R21): `R0` to `R7`, all ordinary (R22). -/
abbrev RegFile := Vector Reg NREG

/-- Data memory (R33, R50): pairs of a word address and its word, addresses strictly rising, with no
pair for a word that is 0, which is what an unlisted address reads as (R39; log entry 2). -/
abbrev Memory := List (Nat × Word)

/-- The canonical form of `Memory`: rising addresses, all of them 0-7, no listed word 0. -/
abbrev Memory.wf (m : Memory) : Prop :=
  (m.map Prod.fst).Pairwise (· < ·) ∧ ∀ c ∈ m, c.1 < NMEM ∧ c.2 ≠ 0

/-- The occupant of `DB`, `AB` or `LB` (R28-R30): an instruction and the operand values captured
when it was decoded. -/
structure Entry where
  instr : Instr
  op1   : Word
  op2   : Word
  deriving DecidableEq, Repr

/-- The occupant of the address slot (R31). -/
structure AddrEntry where
  rd   : RegIdx
  addr : Word
  deriving DecidableEq, Repr

/-- The occupant of a result slot (R32). -/
structure ResultEntry where
  rd    : RegIdx
  value : Word
  deriving DecidableEq, Repr

/-- `status` (R34). -/
inductive Status where
  /-- 0: accepts host load operations, runs no cycle. -/
  | load
  /-- 1: one cycle per clock. -/
  | run
  /-- 2: the terminal state was reached. -/
  | done
  /-- 3: a fatal fault aborted the run. -/
  | fault
  deriving DecidableEq, Repr

/-- `fault_code` (R35, R201), all four values of its two bits. -/
inductive FaultCode where
  /-- 0: no fault. -/
  | none
  /-- 1: LOAD_ADDR_RANGE (R202). -/
  | loadAddrRange
  /-- 2: ALU_BAD_OPCODE (R203). -/
  | aluBadOpcode
  /-- 3: reserved, never written. -/
  | reserved
  deriving DecidableEq, Repr

/-- The `stage` field of `fault_info` (R205). -/
inductive FaultStage where
  /-- 0. -/
  | none
  /-- 1. -/
  | load
  /-- 2. -/
  | alu
  deriving DecidableEq, Repr

/-- `fault_info` (R205). -/
structure FaultInfo where
  stage        : FaultStage
  rd           : RegIdx
  addrOrOpcode : Word
  deriving DecidableEq, Repr

/-- What a stage raises: `Fault(code, info)` (R9, R204). -/
structure FaultRecord where
  code : FaultCode
  info : FaultInfo
  deriving DecidableEq, Repr

/-- The input ports at one rising clock edge (R236). Every default is the port at 0. -/
structure PortsIn where
  rst       : Bool := false
  progValid : Bool := false
  progWord  : InstrWord := 0
  regValid  : Bool := false
  regIdx    : RegIdx := 0
  regVal    : Word := 0
  memValid  : Bool := false
  memAddr   : MemIdx := 0
  memVal    : Word := 0
  start     : Bool := false
  deriving DecidableEq, Repr

/-- Reasons a step could stop. There is none: a fault of this block is an ordinary next state with
`status` FAULT (R204), and every rising edge has exactly one successor (R5, R237). Nobody raises
it; safe. -/
inductive Fault where
  deriving DecidableEq, Repr

/-- Reasons a step could be refused. -/
inductive Refusal where
  /-- Raised by an arm of `exec` that gives its instruction no meaning. No arm does so; safe. -/
  | notModelled (mnemonic : String)
  deriving DecidableEq, Repr

/-- The state of the block (R20), in the spec's order, and the coming inputs. -/
structure State where
  /-- `Q`, oldest first (R26). -/
  q            : List Instr
  /-- `DB` (R28). -/
  db           : Option Entry
  /-- `AB` (R29). -/
  ab           : Option Entry
  /-- `LB` (R30). -/
  lb           : Option Entry
  /-- `ADR` (R31). -/
  adr          : Option AddrEntry
  /-- `RS_LD` (R32). -/
  rsLd         : Option ResultEntry
  /-- `RS_ALU` (R32). -/
  rsAlu        : Option ResultEntry
  /-- `RF` (R21). -/
  rf           : RegFile
  /-- `MEM` (R33). -/
  mem          : Memory
  /-- `status` (R34). -/
  status       : Status
  /-- `fault_code` (R35). -/
  faultCode    : FaultCode
  /-- `fault_info` (R35, R205). -/
  faultInfo    : FaultInfo
  /-- `cycle_count` (R36). -/
  cycleCount   : Counter
  /-- `dropped_count` (R37). -/
  droppedCount : Counter
  /-- The model's own: the input ports at each coming clock edge, the next one first. At an edge
  past the end of the list every input is 0. -/
  inputs       : List PortsIn
  deriving DecidableEq, Repr

/-- `fault_info` with all fields 0 (R39). -/
def FaultInfo.zero : FaultInfo := { stage := .none, rd := 0, addrOrOpcode := 0 }

/-- The state after reset (R39, R230), with no input to come. -/
def State.reset : State where
  q            := []
  db           := none
  ab           := none
  lb           := none
  adr          := none
  rsLd         := none
  rsAlu        := none
  rf           := Vector.replicate NREG { value := 0, busy := false }
  mem          := []
  status       := .load
  faultCode    := .none
  faultInfo    := .zero
  cycleCount   := 0
  droppedCount := 0
  inputs       := []

end Sys2Proof.Machine
end

