-- ==== Sys2Proof/Machine/Ops.lean ====
section
/-! DEFINITION. The operations on registers, memory, queue and counters that every other file uses,
and taking a fault (spec/60_exceptions.md R204). -/

namespace Sys2Proof.Machine

open Sys2Proof

/-- `x[r]` (R9). -/
def readReg (s : State) (r : RegIdx) : Word := s.rf[r].value

/-- `x[r] <- v` (R9); the busy flag stays. -/
def writeReg (s : State) (r : RegIdx) (v : Word) : State :=
  { s with rf := s.rf.set r.val { s.rf[r] with value := v } r.isLt }

/-- What a memory word that is not listed reads as: 0 (R39). -/
def Memory.unlisted : Word := 0

/-- The word at address `a` (R51); total, range checks are the load stage's. -/
def Memory.read : Memory → Nat → Word
  | [], _ => Memory.unlisted
  | (b, v) :: m, a => if b = a then v else Memory.read m a

/-- The pair for `(a, v)` in front of `m`, unless an unlisted address already reads as `v`. -/
def Memory.cons (a : Nat) (v : Word) (m : Memory) : Memory :=
  if v = Memory.unlisted then m else (a, v) :: m

/-- `MEM[a] <- v`, keeping the canonical form (R232). -/
def Memory.write : Memory → Nat → Word → Memory
  | [], a, v => Memory.cons a v []
  | (b, u) :: m, a, v =>
    if a < b then Memory.cons a v ((b, u) :: m)
    else if a = b then Memory.cons a v m
    else (b, u) :: Memory.write m a v

/-- Adds 1, stopping at 2^CW - 1 (R9, R36, R37). -/
def satSucc (c : Counter) : Counter := if c = BitVec.allOnes config.CW then c else c + 1

/-- `status` as the 2-bit port shows it (R34). -/
def Status.bits : Status → BitVec 2
  | .load => 0
  | .run => 1
  | .done => 2
  | .fault => 3

/-- `fault_code` as the 2-bit port shows it (R201). -/
def FaultCode.bits : FaultCode → BitVec 2
  | .none => 0
  | .loadAddrRange => 1
  | .aluBadOpcode => 2
  | .reserved => 3

/-- The 2-bit `stage` field (R205). -/
def FaultStage.bits : FaultStage → BitVec 2
  | .none => 0
  | .load => 1
  | .alu => 2

/-- Fault entry (R204): only the three fault registers are committed, over the state the cycle
started from. There is no return from it (R207). -/
def faultEntry (f : FaultRecord) (s : State) : State :=
  { s with status := .fault, faultCode := f.code, faultInfo := f.info }

/-- Every element takes its reset value (R230); what the host presents next is not the block's. -/
def resetAll (s : State) : State := { State.reset with inputs := s.inputs }

/-- The instruction to execute next, `Q.head` (R24). -/
def fetchHead (s : State) : Option Instr := s.q.head?

/-- `Q.pop()` (R9). -/
def popQueue (s : State) : State := { s with q := s.q.tail }

/-- A host push of an instruction (R26, R27): dropped and counted when the queue is full. -/
def pushQueue (i : Instr) (s : State) : State :=
  if s.q.length = config.QCAP then { s with droppedCount := satSucc s.droppedCount }
  else { s with q := s.q ++ [i] }

end Sys2Proof.Machine
end

