-- ==== Sys2Proof/Machine/Flags.lean ====
section
/-! DEFINITION. The only flags of the block, the eight register busy flags (spec/10_state.md R21,
R25): decode tests and sets them, writeback clears them. -/

namespace Sys2Proof.Machine

open Sys2Proof

/-- `busy[r]` (R9). -/
def isBusy (s : State) (r : RegIdx) : Bool := s.rf[r].busy

/-- `busy[r] <- b` (R9); the value stays. -/
def putBusy (s : State) (r : RegIdx) (b : Bool) : State :=
  { s with rf := s.rf.set r.val { s.rf[r] with busy := b } r.isLt }

/-- The hazard check (R110, R111): a source register is busy. The destination is not tested (R113). -/
def sourceBusy (i : Instr) (s : State) : Bool := isBusy s i.rs || isBusy s i.rt

end Sys2Proof.Machine
end

