-- ==== Sys2Proof/Machine/Operands.lean ====
section
/-! DEFINITION. Operands: both are register values read at decode (spec/30_encoding.md R75), and the
effective address of LD with its range check (42_load.md R171, R172). -/

namespace Sys2Proof.Machine

open Sys2Proof

/-- The instruction with its operands resolved from the register file at this moment (R110). -/
def resolve (i : Instr) (s : State) : Entry :=
  { instr := i, op1 := readReg s i.rs, op2 := readReg s i.rt }

/-- The effective address `op1 + op2` modulo 2^W (R171). -/
def ea (op1 op2 : Word) : Word := op1 + op2

/-- An address is valid when its signed value is in 0..7 (R52, R172). -/
def addrValid (a : Word) : Bool :=
  decide (0 ≤ Word.signed a) && decide (Word.signed a ≤ (NMEM : Int) - 1)

end Sys2Proof.Machine
end

