-- ==== Sys2Proof/Machine/AluValue.lean ====
section
/-! DEFINITION. The value each ALU-class instruction computes (spec/41_alu.md R151-R154) and the
fault of the ALU stage (R155). -/

namespace Sys2Proof.Machine

open Sys2Proof

/-- `alu(ADD, op1, op2)` (R151). -/
def aluAdd (op1 op2 : Word) : Word := op1 + op2

/-- `alu(SUB, op1, op2)`: `rs` minus `rt` (R152). -/
def aluSub (op1 op2 : Word) : Word := op1 - op2

/-- `alu(AND, op1, op2)` (R153). -/
def aluAnd (op1 op2 : Word) : Word := op1 &&& op2

/-- `alu(OR, op1, op2)` (R154). -/
def aluOr (op1 op2 : Word) : Word := op1 ||| op2

/-- `alu(op, op1, op2)` (R106); none for an opcode that is not of the ALU class (R155). -/
def alu (op : Opcode) (op1 op2 : Word) : Option Word :=
  match op with
  | .add => some (aluAdd op1 op2)
  | .sub => some (aluSub op1 op2)
  | .and => some (aluAnd op1 op2)
  | .or => some (aluOr op1 op2)
  | .ld => none

/-- `Fault(ALU_BAD_OPCODE, {ALU, rd, zext_W(op)})` (R155, R203). -/
def aluBadOpcode (e : Entry) : FaultRecord :=
  { code := .aluBadOpcode,
    info := { stage := .alu, rd := e.instr.rd,
              addrOrOpcode := e.instr.op.bits.setWidth config.W } }

end Sys2Proof.Machine
end

