-- ==== Sys2Proof/Machine/LoadValue.lean ====
section
/-! DEFINITION. The value LD reads (spec/42_load.md R173, 20_memory.md R51) and the fault of the
load stage (R172). -/

namespace Sys2Proof.Machine

open Sys2Proof

/-- `MemRead(addr, 1)`: the whole word at `unsigned(addr)` (R51, R173). -/
def memRead (s : State) (addr : Word) : Word := s.mem.read (Word.unsigned addr)

/-- `Fault(LOAD_ADDR_RANGE, {LOAD, rd, addr})` (R172, R202). -/
def loadAddrRange (e : AddrEntry) : FaultRecord :=
  { code := .loadAddrRange,
    info := { stage := .load, rd := e.rd, addrOrOpcode := e.addr } }

end Sys2Proof.Machine
end

