-- ==== Sys2Proof/Machine/Pipeline.lean ====
section
/-! DEFINITION. The seven stages and the cycle (spec/40_pipeline.md R100-R118), as the spec writes
them: a sequence of stage bodies, each reading the state the stages before it left (R10). -/

namespace Sys2Proof.Machine

open Sys2Proof

/-- One result slot retires: `x[rd] <- value ; busy[rd] <- 0` (R103). -/
def retire (e : ResultEntry) (s : State) : State := putBusy (writeReg s e.rd e.value) e.rd false

/-- Writeback of the load slot (R103). -/
def writebackLoadSlot (s : State) : State :=
  match s.rsLd with
  | some e => { retire e s with rsLd := none }
  | none => s

/-- Writeback of the ALU slot (R103). -/
def writebackAluSlot (s : State) : State :=
  match s.rsAlu with
  | some e => { retire e s with rsAlu := none }
  | none => s

/-- The writeback stage: the load slot first, the ALU slot second (R103, R104). -/
def stageWriteback (s : State) : State := writebackAluSlot (writebackLoadSlot s)

/-- The load stage (R105, R172, R173). -/
def stageLoad (s : State) : Except FaultRecord State :=
  match s.adr with
  | some e =>
    if addrValid e.addr then
      .ok { s with rsLd := some { rd := e.rd, value := memRead s e.addr }, adr := none }
    else .error (loadAddrRange e)
  | none => .ok s

/-- The ALU stage (R106, R155). -/
def stageAlu (s : State) : Except FaultRecord State :=
  match s.ab with
  | some e =>
    match alu e.instr.op e.op1 e.op2 with
    | some v => .ok { s with rsAlu := some { rd := e.instr.rd, value := v }, ab := none }
    | none => .error (aluBadOpcode e)
  | none => .ok s

/-- The address-calculation stage (R107); it never faults. -/
def stageAddrCalc (s : State) : State :=
  match s.lb with
  | some e => { s with adr := some { rd := e.instr.rd, addr := ea e.op1 e.op2 }, lb := none }
  | none => s

/-- Issue, load path (R108). -/
def stageIssueLoad (s : State) : State :=
  match s.db with
  | some e => if e.instr.op.isLoad then { s with lb := some e, db := none } else s
  | none => s

/-- Issue, ALU path (R109). -/
def stageIssueAlu (s : State) : State :=
  match s.db with
  | some e => if e.instr.op.isLoad then s else { s with ab := some e, db := none }
  | none => s

/-- The decode stage with `i` at the head of the queue (R110-R113): it stalls while a source is
busy; otherwise it pops `i`, marks the destination busy and puts `i` with its operands in `DB`. -/
def decodeHead (i : Instr) (s : State) : State :=
  if sourceBusy i s then s
  else { putBusy (popQueue s) i.rd true with db := some (resolve i s) }

/-- The terminal test (R117). -/
def terminal (s : State) : Bool :=
  s.q.isEmpty && s.db.isNone && s.ab.isNone && s.lb.isNone && s.adr.isNone && s.rsLd.isNone
    && s.rsAlu.isNone

/-- The driver's bookkeeping at the end of a cycle that commits (R101, R118). -/
def finishCycle (s : State) : State :=
  if terminal s then { s with cycleCount := satSucc s.cycleCount, status := .done }
  else { s with cycleCount := satSucc s.cycleCount }

/-- The stages before decode, up to the first fault (R101). -/
def stagesBeforeDecode (s : State) : Except FaultRecord State :=
  match stageLoad (stageWriteback s) with
  | .error f => .error f
  | .ok s1 =>
    match stageAlu s1 with
    | .error f => .error f
    | .ok s2 => .ok (stageIssueAlu (stageIssueLoad (stageAddrCalc s2)))

/-- One cycle (R101) with the given decode stage. A fault ends it, and then only the fault registers
are committed, over the state the cycle started from (R204). -/
def cycle (decodeStage : State → State) (s : State) : State :=
  match stagesBeforeDecode s with
  | .error f => faultEntry f s
  | .ok u => finishCycle (decodeStage u)

/-- A cycle in which decode finds the queue empty and does nothing (R111): the slots drain. -/
def drainCycle (s : State) : State := cycle id s

end Sys2Proof.Machine
end

