-- ==== Sys2Proof/Machine/Alu.lean ====
section
/-! DEFINITION. The meanings of ADD, SUB, AND and OR (spec/41_alu.md R150-R154). `exec` of an
instruction is the cycle in which it stands at the head of the queue (R24, R101): the stages before
decode act on the older instructions in flight, and decode accepts the instruction, or stalls it
while a source is busy (R110, R111). An accepted instruction carries its operands through `DB`, `AB`
and `RS_ALU`; its value is computed by `aluAdd`, `aluSub`, `aluAnd` or `aluOr` in the ALU stage two
cycles later and written to `x[rd]` in the cycle after that (R150). -/

namespace Sys2Proof.Machine

open Sys2Proof

/-- ADD at the head of the queue (R151). -/
def execAdd (rd rs rt : RegIdx) (s : State) : Host.Outcome State Fault Refusal :=
  .next (cycle (decodeHead (.add rd rs rt)) s)

/-- SUB at the head of the queue (R152). -/
def execSub (rd rs rt : RegIdx) (s : State) : Host.Outcome State Fault Refusal :=
  .next (cycle (decodeHead (.sub rd rs rt)) s)

/-- AND at the head of the queue (R153). -/
def execAnd (rd rs rt : RegIdx) (s : State) : Host.Outcome State Fault Refusal :=
  .next (cycle (decodeHead (.and rd rs rt)) s)

/-- OR at the head of the queue (R154). -/
def execOr (rd rs rt : RegIdx) (s : State) : Host.Outcome State Fault Refusal :=
  .next (cycle (decodeHead (.or rd rs rt)) s)

end Sys2Proof.Machine
end

