-- ==== Sys2Proof/Machine/Load.lean ====
section
/-! DEFINITION. The meaning of LD (spec/42_load.md R170-R173): the cycle in which it stands at the
head of the queue (R24, R101). Once accepted it goes through `DB`, `LB`, `ADR` and `RS_LD`: its
address is formed two cycles later, memory is read (or LOAD_ADDR_RANGE raised) in the third and
`x[rd]` is written in the fourth. -/

namespace Sys2Proof.Machine

open Sys2Proof

/-- LD at the head of the queue (R170). -/
def execLd (rd rs rt : RegIdx) (s : State) : Host.Outcome State Fault Refusal :=
  .next (cycle (decodeHead (.ld rd rs rt)) s)

end Sys2Proof.Machine
end

