-- ==== Sys2Proof/Machine/HostPort.lean ====
section
/-! DEFINITION. The host interface (spec/70_reset_and_hazards.md R230-R237): the load operations and
the start command, the reading of the input ports, and the inputs a loader presents for text lines. -/

namespace Sys2Proof.Machine

open Sys2Proof

/-- `push_instr(w)` (R232): a reserved word has no effect (R77), a full queue drops the push. -/
def pushInstr (w : InstrWord) (s : State) : State :=
  match decode w with
  | .ok i => pushQueue i s
  | .error _ => s

/-- `set_reg(n, v)` (R232): the busy flag is not changed. -/
def setReg (n : RegIdx) (v : Word) (s : State) : State := writeReg s n v

/-- `set_mem(a, v)` (R232). -/
def setMem (a : MemIdx) (v : Word) (s : State) : State := { s with mem := s.mem.write a.val v }

/-- The load operations presented at one edge; the three act on disjoint state (R232, R234). -/
def applyLoads (p : PortsIn) (s : State) : State :=
  let s1 := if p.progValid then pushInstr p.progWord s else s
  let s2 := if p.regValid then setReg p.regIdx p.regVal s1 else s1
  if p.memValid then setMem p.memAddr p.memVal s2 else s2

/-- `start` (R235): DONE when the state is terminal, RUN otherwise. -/
def startRun (s : State) : State :=
  { s with status := if terminal s then .done else .run }

/-- An edge in LOAD (R237): the load operations, then `start`. -/
def loadEdge (p : PortsIn) (s : State) : State :=
  if p.start then startRun (applyLoads p s) else applyLoads p s

/-- Every input at 0. -/
def PortsIn.idle : PortsIn := {}

/-- The inputs at the coming edge; idle past the end of the list (log entry 1). -/
def nextInput (s : State) : PortsIn := s.inputs.head?.getD PortsIn.idle

/-- The state once the coming edge's inputs are read off. -/
def dropInput (s : State) : State := { s with inputs := s.inputs.tail }

/-- The push a loader makes for a program line: one for a well-formed line, none for a malformed
one (R79, R82). -/
def progInputs (l : ProgLine) : List PortsIn :=
  match l.instr? with
  | some i => [{ progValid := true, progWord := encode i }]
  | none => []

/-- The operation for a register line (R80, R82). -/
def regInputs (l : RegLine) : List PortsIn :=
  match l.init? with
  | some (n, v) => [{ regValid := true, regIdx := n, regVal := v }]
  | none => []

/-- The operation for a memory line (R81, R82). -/
def memInputs (l : MemLine) : List PortsIn :=
  match l.init? with
  | some (a, v) => [{ memValid := true, memAddr := a, memVal := v }]
  | none => []

/-- What a loader presents for the three text streams (R232, R238): one operation a clock in line
order (R84, R234), then `start` in a clock of its own (log entry 6). -/
def loaderInputs (prog : List ProgLine) (regs : List RegLine) (mem : List MemLine) : List PortsIn :=
  prog.flatMap progInputs ++ regs.flatMap regInputs ++ mem.flatMap memInputs ++ [{ start := true }]

end Sys2Proof.Machine
end

