-- ==== Sys2Proof/Machine/Outputs.lean ====
section
/-! DEFINITION. The outputs (spec/70_reset_and_hazards.md R236) and the snapshots (10_state.md R38,
40_pipeline.md R119): functions of the state, without effect on it. -/

namespace Sys2Proof

/-- The bit packing of the snapshot bus, which the spec leaves open (R38, parameter `SNAP_LAYOUT`,
D20): a free value, log entry 4. -/
opaque Config.snapLayout : Machine.State → List Bool

end Sys2Proof

namespace Sys2Proof.Machine

open Sys2Proof

/-- The snapshot (R38): every component of the state tuple, without the model's own `inputs`. -/
def State.snapshot (s : State) : State := { s with inputs := [] }

/-- The output ports (R236). -/
structure PortsOut where
  status       : BitVec 2
  faultCode    : BitVec 2
  faultStage   : BitVec 2
  faultRd      : BitVec 3
  faultAddrOp  : Word
  cycleCount   : Counter
  droppedCount : Counter
  snap         : List Bool
  deriving DecidableEq, Repr

/-- The outputs in a state; no input has a part in them (R236). -/
def State.outputs (s : State) : PortsOut :=
  { status := s.status.bits
    faultCode := s.faultCode.bits
    faultStage := s.faultInfo.stage.bits
    faultRd := regBits s.faultInfo.rd
    faultAddrOp := s.faultInfo.addrOrOpcode
    cycleCount := s.cycleCount
    droppedCount := s.droppedCount
    snap := Config.snapLayout s.snapshot }

/-- The snapshot a clock edge from `s` to `t` emits (R119): snapshot 0 when `status` leaves LOAD by
`start`, one at the end of each cycle, and none for a faulting cycle or an idle edge. -/
def emitted (s t : State) : Option State :=
  match s.status, t.status with
  | .load, .run => some t.snapshot
  | .load, .done => some t.snapshot
  | .run, .run => some t.snapshot
  | .run, .done => some t.snapshot
  | _, _ => none

end Sys2Proof.Machine
end

