-- ==== Sys2Proof/Machine/Step.lean ====
section
/-! DEFINITION. One step is one rising clock edge (spec/70_reset_and_hazards.md R237): reset first
(R230); in LOAD the load operations and `start`; in RUN one cycle, which runs the instruction at the
head of the queue; in DONE and FAULT nothing. -/

namespace Sys2Proof.Machine

open Sys2Proof

/-- One rising clock edge (R237). -/
def step (s : State) : Host.Outcome State Fault Refusal :=
  if (nextInput s).rst then .next (resetAll (dropInput s))
  else
    match s.status with
    | .load => .next (loadEdge (nextInput s) (dropInput s))
    | .run =>
      match fetchHead s with
      | some i => exec i (dropInput s)
      | none => .next (drainCycle (dropInput s))
    | .done => .next (dropInput s)
    | .fault => .next (dropInput s)

/-- `s` running, with the given instruction at the head of the queue in place of the one there, and
no reset to come: the very next step runs it (log entry 3). A word that is no instruction changes
nothing, as a push of it does (R77). -/
def State.withFetchWord (s : State) (nbits w : Nat) : State :=
  match decodeTableWord nbits w with
  | some i => { s with q := i :: s.q.tail, status := .run, inputs := [] }
  | none => s

end Sys2Proof.Machine
end

