-- ==== Sys2Proof/Safety.lean ====
section
/-! DEFINITION. The terms the statements use: runs, reachable states, what is in flight, the views of
the register file a cycle's decode stage has, the invariant, the simultaneous form of the cycle
(spec/40_pipeline.md R120), and the sequential reading of a program (70_reset_and_hazards.md R241). -/

namespace Sys2Proof.Machine

open Sys2Proof

/-- `k` clock edges. -/
def steps : Nat → State → Host.Outcome State Fault Refusal
  | 0, s => .next s
  | k + 1, s =>
    match step s with
    | .next t => steps k t
    | .fault f => .fault f
    | .refused r => .refused r

/-- The host asserts `rst` at none of the coming edges. -/
abbrev noReset (s : State) : Prop := ∀ p ∈ s.inputs, p.rst = false

/-- The states the block can be in: after reset, with any inputs to come, and after any number of
clock edges (R248). -/
inductive Reachable : State → Prop where
  | reset (inputs : List PortsIn) : Reachable { State.reset with inputs := inputs }
  | edge {s t : State} : Reachable s → step s = .next t → Reachable t

/-- A valid `DB`, `AB` or `LB` names `r` as its destination. -/
def Entry.names (o : Option Entry) (r : RegIdx) : Bool := o.any fun e => e.instr.rd == r

/-- A valid result slot names `r`. -/
def ResultEntry.names (o : Option ResultEntry) (r : RegIdx) : Bool := o.any fun e => e.rd == r

/-- A valid address slot names `r`. -/
def AddrEntry.names (o : Option AddrEntry) (r : RegIdx) : Bool := o.any fun e => e.rd == r

/-- An in-flight instruction other than the one in `DB` names `r` as its destination. -/
def inFlightPastDecode (s : State) (r : RegIdx) : Bool :=
  Entry.names s.ab r || Entry.names s.lb r || AddrEntry.names s.adr r
    || ResultEntry.names s.rsLd r || ResultEntry.names s.rsAlu r

/-- Some in-flight instruction names `r` as its destination (R41). -/
def inFlight (s : State) (r : RegIdx) : Bool := Entry.names s.db r || inFlightPastDecode s r

/-- A result for `r` retires in the cycle that starts in `s`. -/
def retiring (s : State) (r : RegIdx) : Bool :=
  ResultEntry.names s.rsLd r || ResultEntry.names s.rsAlu r

/-- `x[r]` as the cycle's decode stage sees it (R103, R104, R115): the ALU slot's value if that slot
names `r`, else the load slot's, else the register's. -/
def regAfterWriteback (s : State) (r : RegIdx) : Word :=
  match s.rsAlu, s.rsLd with
  | some a, some l => if a.rd = r then a.value else if l.rd = r then l.value else readReg s r
  | some a, none => if a.rd = r then a.value else readReg s r
  | none, some l => if l.rd = r then l.value else readReg s r
  | none, none => readReg s r

/-- `busy[r]` as the cycle's decode stage sees it (R103, R115). -/
def busyAfterWriteback (s : State) (r : RegIdx) : Bool := isBusy s r && !retiring s r

/-- The hazard check passes for `i` in the cycle that starts in `s` (R110). -/
def sourcesFree (i : Instr) (s : State) : Bool :=
  !busyAfterWriteback s i.rs && !busyAfterWriteback s i.rt

/-- The cycle that starts in `s` raises no fault: `ADR` is empty or in range and `AB` is empty or of
the ALU class. -/
abbrev noFaultNow (s : State) : Prop :=
  (∀ e, s.adr = some e → addrValid e.addr = true) ∧
  (∀ e, s.ab = some e → e.instr.op.isLoad = false)

/-- No instruction already past the queue will raise a fault, in this cycle or later. -/
abbrev quietAhead (s : State) : Prop :=
  noFaultNow s ∧
  (∀ e, s.lb = some e → addrValid (ea e.op1 e.op2) = true) ∧
  (∀ e, s.db = some e → e.instr.op.isLoad = true → addrValid (ea e.op1 e.op2) = true)

/-- Every pipeline slot is empty. -/
abbrev slotsEmpty (s : State) : Prop :=
  s.db = none ∧ s.ab = none ∧ s.lb = none ∧ s.adr = none ∧ s.rsLd = none ∧ s.rsAlu = none

/-- The initial state of a run of at least one instruction (R231, R235). -/
structure InitialState (s : State) : Prop where
  running    : s.status = .run
  queue      : s.q ≠ []
  capacity   : s.q.length ≤ config.QCAP
  slots      : slotsEmpty s
  free       : ∀ r, isBusy s r = false
  cycleCount : s.cycleCount = 0

/-- The invariant of every state a run reaches (R26, R34, R35, R40, R41). -/
structure Inv (s : State) : Prop where
  /-- `Q` holds at most `QCAP` instructions (R26). -/
  capacity : s.q.length ≤ config.QCAP
  /-- Memory is in its canonical form. -/
  memForm : s.mem.wf
  /-- A valid `AB` holds a non-LD instruction (R40). -/
  aluClass : ∀ e, s.ab = some e → e.instr.op.isLoad = false
  /-- A valid `LB` holds an LD instruction (R40). -/
  loadClass : ∀ e, s.lb = some e → e.instr.op.isLoad = true
  /-- A busy register has an in-flight writer (R41). -/
  busyInFlight : ∀ r, isBusy s r = true → inFlight s r = true
  /-- In LOAD nothing is in flight and no cycle has been counted (R34, R36). -/
  loadQuiet : s.status = .load → slotsEmpty s ∧ s.cycleCount = 0
  /-- RUN is never terminal (R118). -/
  runLive : s.status = .run → terminal s = false
  /-- DONE is terminal (R118). -/
  doneTerminal : s.status = .done → terminal s = true
  /-- In FAULT the registers record the out-of-range load that is in `ADR` (R202, R204, R205). -/
  faultRecorded : s.status = .fault → s.faultCode = .loadAddrRange ∧
    ∃ e, s.adr = some e ∧ addrValid e.addr = false ∧
      s.faultInfo = { stage := .load, rd := e.rd, addrOrOpcode := e.addr }
  /-- Outside FAULT they hold their reset values (R35). -/
  faultClear : s.status ≠ .fault → s.faultCode = .none ∧ s.faultInfo = FaultInfo.zero

/-- What the five instructions compute, read sequentially: ALU value, or the word loaded. -/
def seqValue (i : Instr) (a b : Word) (mem : Memory) : Word :=
  match i with
  | .add _ _ _ => a + b
  | .sub _ _ _ => a - b
  | .and _ _ _ => a &&& b
  | .or _ _ _ => a ||| b
  | .ld _ _ _ => mem.read (a + b).toNat

/-- The register values after running the instructions one after another, each reading what the
ones before it wrote. -/
def seqRun : List Instr → (RegIdx → Word) → Memory → RegIdx → Word
  | [], x, _ => x
  | i :: rest, x, mem =>
    seqRun rest (fun r => if r = i.rd then seqValue i (x i.rs) (x i.rt) mem else x r) mem

/-- After a write of `r`, the next write of `r` in the list, if any, comes after a reader of `r` or
reads `r` itself (R241). -/
def readBeforeRewrite (r : RegIdx) : List Instr → Bool
  | [] => true
  | k :: rest => k.rs == r || k.rt == r || (k.rd != r && readBeforeRewrite r rest)

/-- The condition of rule R241: between two consecutive writers of a register some instruction, at
the latest the second writer, reads it. -/
def hazardFree : List Instr → Bool
  | [] => true
  | i :: rest => readBeforeRewrite i.rd rest && hazardFree rest

/-- `RF1` of rule R120: the register file after this cycle's writeback. -/
def simRf1 (s : State) : RegFile :=
  let rf := match s.rsLd with
    | some e => s.rf.set e.rd.val { value := e.value, busy := false } e.rd.isLt
    | none => s.rf
  match s.rsAlu with
  | some e => rf.set e.rd.val { value := e.value, busy := false } e.rd.isLt
  | none => rf

/-- The head of the queue when decode accepts it, reading `RF1` (R120). -/
def simAccepted (s : State) : Option Instr :=
  match s.q with
  | h :: _ => if (simRf1 s)[h.rs].busy = false ∧ (simRf1 s)[h.rt].busy = false then some h else none
  | [] => none

/-- The committed next state of rule R120, before its `status`: every right-hand side reads the
state at the start of the cycle or `RF1`. -/
def simCommit (s : State) : State :=
  { s with
    rsLd := s.adr.map fun e => { rd := e.rd, value := s.mem.read e.addr.toNat }
    rsAlu := s.ab.bind fun e =>
      (alu e.instr.op e.op1 e.op2).map fun v => { rd := e.instr.rd, value := v }
    adr := s.lb.map fun e => { rd := e.instr.rd, addr := e.op1 + e.op2 }
    lb := s.db.filter fun e => e.instr.op == .ld
    ab := s.db.filter fun e => e.instr.op != .ld
    db := (simAccepted s).map fun h =>
      { instr := h, op1 := (simRf1 s)[h.rs].value, op2 := (simRf1 s)[h.rt].value }
    q := if (simAccepted s).isSome then s.q.tail else s.q
    rf := match simAccepted s with
      | some h => (simRf1 s).set h.rd.val { (simRf1 s)[h.rd] with busy := true } h.rd.isLt
      | none => simRf1 s
    cycleCount := if s.cycleCount.toNat = 2 ^ config.CW - 1 then s.cycleCount else s.cycleCount + 1 }

/-- `terminal` of rule R117, as the rule writes it. -/
abbrev isTerminal (s : State) : Prop := s.q.length = 0 ∧ slotsEmpty s

/-- The cycle as one simultaneous next-state function (R120). -/
def simCycle (s : State) : State :=
  match s.adr.filter (fun e => !decide (0 ≤ e.addr.toInt ∧ e.addr.toInt ≤ 7)),
        s.ab.filter (fun e => e.instr.op == .ld) with
  | some e, _ =>
    { s with status := .fault, faultCode := .loadAddrRange,
             faultInfo := { stage := .load, rd := e.rd, addrOrOpcode := e.addr } }
  | none, some e =>
    { s with status := .fault, faultCode := .aluBadOpcode,
             faultInfo := { stage := .alu, rd := e.instr.rd, addrOrOpcode := 4 } }
  | none, none => { simCommit s with status := if isTerminal (simCommit s) then .done else .run }

/-- The lifetime of an ALU-class instruction with opcode number `op` that computes `f` (R150): its
word is laid out as rule R72 says, and in every running state whose decode stage finds both sources free, and in which no older instruction will raise a fault,
`exec` answers the next state `t1` with the instruction and its captured operands in `DB` and its
destination busy, and the next three clock edges carry it to `AB`, to `RS_ALU` with the value `f`
gives, and to `x[rd]`. After the last of them `busy[rd]` is set only if the instruction then in `DB`
names `rd`. -/
def AluLifetime (op : BitVec 3) (mk : RegIdx → RegIdx → RegIdx → Instr)
    (f : Word → Word → Word) : Prop :=
  (∀ rd rs rt : RegIdx, encode (mk rd rs rt) = op ++ regBits rd ++ regBits rs ++ regBits rt) ∧
  ∀ (rd rs rt : RegIdx) (s : State), s.status = .run → noReset s → quietAhead s →
    sourcesFree (mk rd rs rt) s = true →
    ∃ t1 t2 t3 t4 : State,
      exec (mk rd rs rt) s = .next t1 ∧ t1.q = s.q.tail ∧
      t1.db = some { instr := mk rd rs rt, op1 := regAfterWriteback s rs,
                     op2 := regAfterWriteback s rt } ∧
      isBusy t1 rd = true ∧
      step t1 = .next t2 ∧ t2.ab = t1.db ∧
      step t2 = .next t3 ∧
      t3.rsAlu =
        some { rd := rd, value := f (regAfterWriteback s rs) (regAfterWriteback s rt) } ∧
      step t3 = .next t4 ∧ t4.status ≠ .fault ∧
      readReg t4 rd = f (regAfterWriteback s rs) (regAfterWriteback s rt) ∧
      (isBusy t4 rd = true ↔ Entry.names t4.db rd = true)

/-- The counters set aside: `dropped_count` and `cycle_count` at 0. -/
def eraseCounters (s : State) : State := { s with droppedCount := 0, cycleCount := 0 }

end Sys2Proof.Machine
end

