-- ==== Sys2Proof/Certificates/Slice0/Obligations.lean ====
section
/-! DEFINITION. The statements for the provers, from the numbered rules of spec/, file by file. -/

open Sys2Proof Sys2Proof.Machine

/-! ### 30_encoding.md -/

/-- Words written out from the layout of rules R72 and R73 (examples of R79) decode to the
instructions they stand for, and a word with a reserved opcode number decodes to none. -/
def Obligations.SpecWordsDecode : Prop :=
  decode 0b000_001_010_011 = .ok (.add 1 2 3) ∧
  decode 0b001_100_101_110 = .ok (.sub 4 5 6) ∧
  decode 0b010_110_100_010 = .ok (.and 6 4 2) ∧
  decode 0b011_111_110_011 = .ok (.or 7 6 3) ∧
  decode 0b100_001_010_011 = .ok (.ld 1 2 3) ∧
  decode 0b101_000_000_000 = .error (.reservedOpcode 0b101)

/-- R72, R74, R78: decoding the encoding of an instruction gives it back, with every register in
every field, and a word that decodes to an instruction is that instruction's encoding. -/
def Obligations.DecodeAndEncodeAreInverse : Prop :=
  (∀ i : Instr, decode (encode i) = .ok i) ∧
  (∀ (w : InstrWord) (i : Instr), decode w = .ok i → encode i = w)

/-- R73: a word decodes to an instruction with a row's opcode exactly when the word under the row's
mask is the row's match, and it is reserved exactly when it matches no row. -/
def Obligations.OpcodeTableSelectsOpcode : Prop :=
  (∀ row ∈ opcodeTable, ∀ w : InstrWord,
    w &&& row.mask = row.pattern ↔ ∃ i, decode w = .ok i ∧ i.op = row.opcode) ∧
  (∀ w : InstrWord, (∀ row ∈ opcodeTable, w &&& row.mask ≠ row.pattern) ↔
    opField w ∈ [0b101, 0b110, 0b111] ∧ decode w = .error (.reservedOpcode (opField w)))

/-- R77: a reserved word spells no instruction, and an edge in LOAD that presents only a push of one
changes no state. -/
def Obligations.ReservedPushHasNoEffect : Prop :=
  ∀ (w : InstrWord) (s : State) (rest : List PortsIn), opField w ∈ [0b101, 0b110, 0b111] →
    s.status = .load → s.inputs = { progValid := true, progWord := w } :: rest →
    (∀ i, decode w ≠ .ok i) ∧ step s = .next { s with inputs := rest }

/-! ### 10_state.md and 70_reset_and_hazards.md: reset and the host interface -/

/-- R39: the reset value of every state element. -/
def Obligations.ResetValues : Prop :=
  State.reset.q = [] ∧ slotsEmpty State.reset ∧
  (∀ r, readReg State.reset r = 0 ∧ isBusy State.reset r = false) ∧
  (∀ a, State.reset.mem.read a = 0) ∧
  State.reset.status = .load ∧ State.reset.faultCode = .none ∧
  State.reset.faultInfo = { stage := .none, rd := 0, addrOrOpcode := 0 } ∧
  State.reset.cycleCount = 0 ∧ State.reset.droppedCount = 0

/-- R230: an edge with `rst` gives every state element its reset value, whatever the status and the
other inputs. -/
def Obligations.ResetOverridesEverything : Prop :=
  ∀ (s : State) (p : PortsIn) (rest : List PortsIn), s.inputs = p :: rest → p.rst = true →
    step s = .next { State.reset with inputs := rest }

/-- R232, R234: an edge in LOAD without `start` pushes a legal word at the rear of a queue that is
not full, writes the presented register (its busy flag stays) and the presented memory word, all of
those presented at once, and changes nothing else. Memory is in its canonical form (log entry 2). -/
def Obligations.LoadOperationsTakeEffect : Prop :=
  ∀ (s : State) (p : PortsIn) (rest : List PortsIn), s.status = .load → s.mem.wf →
    s.inputs = p :: rest → p.rst = false → p.start = false →
    ∃ t, step s = .next t ∧
      t.q = (match p.progValid, decode p.progWord with
        | true, .ok i => if s.q.length = config.QCAP then s.q else s.q ++ [i]
        | _, _ => s.q) ∧
      t.droppedCount = (match p.progValid, decode p.progWord with
        | true, .ok _ => if s.q.length = config.QCAP then satSucc s.droppedCount
                         else s.droppedCount
        | _, _ => s.droppedCount) ∧
      (∀ r, readReg t r = if p.regValid = true ∧ r = p.regIdx then p.regVal else readReg s r) ∧
      (∀ r, isBusy t r = isBusy s r) ∧
      (∀ a, t.mem.read a = if p.memValid = true ∧ a = p.memAddr.val then p.memVal
                           else s.mem.read a) ∧
      t = { s with q := t.q, droppedCount := t.droppedCount, rf := t.rf, mem := t.mem,
                   inputs := rest }

/-- R27: a push of a legal word while the queue is full does not change the queue and adds one to
`dropped_count`, which saturates at 2^CW - 1. -/
def Obligations.FullQueueDropsAndCounts : Prop :=
  ∀ (s : State) (w : InstrWord) (i : Instr) (rest : List PortsIn), s.status = .load →
    s.inputs = { progValid := true, progWord := w } :: rest → decode w = .ok i →
    s.q.length = config.QCAP →
    ∃ t, step s = .next t ∧ t.q = s.q ∧
      t.droppedCount.toNat = min (s.droppedCount.toNat + 1) (2 ^ config.CW - 1) ∧
      t = { s with droppedCount := t.droppedCount, inputs := rest }

/-- R233: in RUN, DONE and FAULT every input but `rst` is ignored. -/
def Obligations.InputsIgnoredOutsideLoad : Prop :=
  ∀ (s : State) (p : PortsIn) (rest : List PortsIn), s.status ≠ .load → p.rst = false →
    step { s with inputs := p :: rest } = step { s with inputs := PortsIn.idle :: rest }

/-- R235: `start` first lets the load operations of the same edge take effect, then makes `status`
DONE if the state is terminal and RUN otherwise; no cycle is taken at that edge. -/
def Obligations.StartLeavesLoad : Prop :=
  ∀ (s : State) (p : PortsIn) (rest : List PortsIn), s.status = .load → p.rst = false →
    ∃ u, step { s with inputs := { p with start := false } :: rest } = .next u ∧
      step { s with inputs := { p with start := true } :: rest } =
        .next { u with status := if isTerminal u then .done else .run }

/-- R217: in DONE and FAULT an edge without `rst` changes nothing. -/
def Obligations.DoneAndFaultAreIdle : Prop :=
  ∀ s : State, s.status = .done ∨ s.status = .fault → (nextInput s).rst = false →
    step s = .next { s with inputs := s.inputs.tail }

/-- R231, R82, R84, R80, R81: from reset, the inputs a loader presents for any three text streams
lead to the initial state of the run: the first `QCAP` well-formed program lines in line order, the
pushes beyond them counted, each register and memory word at the value of its last line (0 if it has
none), nothing busy, every slot empty. The order of the streams is the model's (log entry 6). -/
def Obligations.LoaderBuildsInitialState : Prop :=
  ∀ (prog : List ProgLine) (regs : List RegLine) (mem : List MemLine),
    ∃ t, steps (loaderInputs prog regs mem).length
        { State.reset with inputs := loaderInputs prog regs mem } = .next t ∧
      t.q = (prog.filterMap ProgLine.instr?).take config.QCAP ∧
      t.droppedCount.toNat =
        min ((prog.filterMap ProgLine.instr?).length - config.QCAP) (2 ^ config.CW - 1) ∧
      (∀ r, readReg t r =
        (((regs.filterMap RegLine.init?).reverse.find? fun c => c.1 == r).map Prod.snd).getD 0) ∧
      (∀ a : MemIdx, t.mem.read a.val =
        (((mem.filterMap MemLine.init?).reverse.find? fun c => c.1 == a).map Prod.snd).getD 0) ∧
      (∀ r, isBusy t r = false) ∧ slotsEmpty t ∧ t.cycleCount = 0 ∧
      t.status = if t.q = [] then .done else .run

/-! ### 40_pipeline.md: the cycle -/

/-- The model's reading of R24, R100, R101 and R237 (log entry 7, DEDUCED): `exec` of an instruction
is the one clock edge with it at the head of the queue. A step in RUN is `exec` of the instruction
at the head of the queue, and the cycle with no instruction to decode when the queue is empty; the
edge's inputs are read off. -/
def Obligations.StepRunsHeadInstruction : Prop :=
  ∀ s : State, s.status = .run → (nextInput s).rst = false →
    (∀ i rest, s.q = i :: rest → step s = exec i { s with inputs := s.inputs.tail }) ∧
    (s.q = [] → step s = .next (drainCycle { s with inputs := s.inputs.tail }))

/-- R5, R121: every state has exactly one successor: no step stops with a fault or a refusal of the
model. -/
def Obligations.EveryEdgeHasOneSuccessor : Prop :=
  ∀ s : State, ∃ t, step s = .next t

/-- R120, which the spec marks as derived: one step in RUN, the sequence of stage bodies of R101,
equals the simultaneous next-state function, its fault entry included. -/
def Obligations.SequentialEqualsSimultaneous : Prop :=
  ∀ s : State, s.status = .run → (nextInput s).rst = false →
    step s = .next (simCycle { s with inputs := s.inputs.tail })

/-- R102, which the spec marks as derived: in a cycle without a fault every slot's occupant moves to
the next slot of its path and a result slot is written back and gone; nothing else enters a slot.
The stages of different paths that the order puts next to each other can be exchanged. -/
def Obligations.EachSlotAdvancesOneStage : Prop :=
  (∀ s t : State, s.status = .run → (nextInput s).rst = false → step s = .next t →
    t.status ≠ .fault →
    t.lb = s.db.filter (fun e => e.instr.op == .ld) ∧
    t.ab = s.db.filter (fun e => e.instr.op != .ld) ∧
    t.adr.map AddrEntry.rd = s.lb.map (fun e => e.instr.rd) ∧
    t.rsLd.map ResultEntry.rd = s.adr.map AddrEntry.rd ∧
    t.rsAlu.map ResultEntry.rd = s.ab.map (fun e => e.instr.rd) ∧
    (∀ r, readReg t r = regAfterWriteback s r)) ∧
  (∀ s : State, stageIssueAlu (stageIssueLoad s) = stageIssueLoad (stageIssueAlu s)) ∧
  (∀ s : State, (stageAlu s).map stageAddrCalc = stageAlu (stageAddrCalc s))

/-- R103 (and R104, which the spec derives from it): in a cycle without a fault, with any
instruction at the head of the queue or none, a valid load slot and a valid ALU slot both retire;
where both name one register the ALU value remains; every register named by neither keeps its value;
and no result stays in a slot. -/
def Obligations.WritebackRetiresBothSlots : Prop :=
  (∀ s : State,
    (∀ l, s.rsLd = some l → (∀ a, s.rsAlu = some a → a.rd ≠ l.rd) →
      readReg (stageWriteback s) l.rd = l.value ∧ isBusy (stageWriteback s) l.rd = false) ∧
    (∀ a, s.rsAlu = some a →
      readReg (stageWriteback s) a.rd = a.value ∧ isBusy (stageWriteback s) a.rd = false) ∧
    (∀ r, retiring s r = false →
      readReg (stageWriteback s) r = readReg s r ∧ isBusy (stageWriteback s) r = isBusy s r) ∧
    (stageWriteback s).rsLd = none ∧ (stageWriteback s).rsAlu = none) ∧
  (∀ s t : State, s.status = .run → (nextInput s).rst = false → step s = .next t →
    t.status ≠ .fault → ∀ r, readReg t r = readReg (stageWriteback s) r)

/-- R21, R25, R110, R103: after a cycle without a fault a register is busy exactly when the
instruction decode just put in `DB` names it, or it was busy and no result for it retired. -/
def Obligations.BusyFlagsFollowDecodeAndWriteback : Prop :=
  ∀ s t : State, s.status = .run → (nextInput s).rst = false → step s = .next t →
    t.status ≠ .fault →
    ∀ r, isBusy t r = (Entry.names t.db r || (isBusy s r && !retiring s r))

/-- R108, R109: after the two issue stages `DB` is empty, and the entry that was in it, operands
unchanged, is in `LB` if its opcode is LD and in `AB` otherwise, in exactly one of the two. -/
def Obligations.IssueRoutesByClass : Prop :=
  ∀ s : State, s.ab = none → s.lb = none →
    (stageIssueAlu (stageIssueLoad s)).db = none ∧
    ∀ e, s.db = some e →
      (e.instr.op = .ld → stageIssueAlu (stageIssueLoad s) = { s with lb := some e, db := none }) ∧
      (e.instr.op ≠ .ld → stageIssueAlu (stageIssueLoad s) = { s with ab := some e, db := none })

/-- R110: in a cycle without a fault, if both sources of the head are free after writeback, decode
pops the head, marks its destination busy and puts it in `DB` with the operand values read at that
moment; if a source is busy, or the queue is empty, it does nothing and `DB` stays empty. -/
def Obligations.DecodeAcceptsFreeHead : Prop :=
  ∀ s : State, noFaultNow s →
    (∀ i, sourcesFree i s = true →
      ∃ t, exec i s = .next t ∧ t.q = s.q.tail ∧ isBusy t i.rd = true ∧
        t.db =
          some { instr := i, op1 := regAfterWriteback s i.rs, op2 := regAfterWriteback s i.rt }) ∧
    (∀ i, sourcesFree i s = false →
      ∃ t, exec i s = .next t ∧ t.q = s.q ∧ t.db = none ∧
        ∀ r, isBusy t r = busyAfterWriteback s r) ∧
    (s.q = [] → (drainCycle s).q = [] ∧ (drainCycle s).db = none ∧
      ∀ r, isBusy (drainCycle s) r = busyAfterWriteback s r)

/-- R111: in a cycle without a fault in which the queue is empty or a source of the head is busy
after writeback, decode leaves the queue, the busy flags and the register values as writeback left
them and puts nothing in `DB`; the stages downstream move as in any cycle. -/
def Obligations.DecodeStallsOnBusySource : Prop :=
  ∀ s : State, s.status = .run → (nextInput s).rst = false → noFaultNow s →
    (∀ i, s.q.head? = some i → sourcesFree i s = false) →
    ∃ t, step s = .next t ∧ t.q = s.q ∧ t.db = none ∧
      (∀ r, isBusy t r = busyAfterWriteback s r ∧ readReg t r = regAfterWriteback s r) ∧
      t.lb = s.db.filter (fun e => e.instr.op == .ld) ∧
      t.ab = s.db.filter (fun e => e.instr.op != .ld) ∧
      t.adr.map AddrEntry.rd = s.lb.map (fun e => e.instr.rd) ∧
      t.rsLd.map ResultEntry.rd = s.adr.map AddrEntry.rd ∧
      t.rsAlu.map ResultEntry.rd = s.ab.map (fun e => e.instr.rd)

/-- R113: an instruction whose destination is busy, with no result for it retiring, is accepted when
its sources are free, and its destination stays busy. -/
def Obligations.DestinationIsNotChecked : Prop :=
  ∀ (i : Instr) (s : State), noFaultNow s → isBusy s i.rd = true → retiring s i.rd = false →
    sourcesFree i s = true →
    ∃ t e, exec i s = .next t ∧ t.q = s.q.tail ∧ t.db = some e ∧ e.instr = i ∧
      isBusy t i.rd = true

/-- R114: a step in RUN takes at most one instruction from the queue, from its head, and what it
takes is what enters `DB`. -/
def Obligations.DecodeIsInOrder : Prop :=
  ∀ s t : State, s.status = .run → (nextInput s).rst = false → step s = .next t →
    t.q = s.q ∨ ∃ i e, s.q = i :: t.q ∧ t.db = some e ∧ e.instr = i

/-- R115, which the spec marks as derived: in the cycle in which a result for the head's source
retires, the head is accepted and reads the new value, if its other source is free; also when a
younger writer of the register is still in flight (R240). -/
def Obligations.RetiringResultIsReadAtOnce : Prop :=
  ∀ (i : Instr) (s : State), noFaultNow s →
    (∀ a, s.rsAlu = some a → i.rs = a.rd → busyAfterWriteback s i.rt = false →
      ∃ t e, exec i s = .next t ∧ t.q = s.q.tail ∧ t.db = some e ∧ e.instr = i ∧
        e.op1 = a.value) ∧
    (∀ a, s.rsAlu = some a → i.rt = a.rd → busyAfterWriteback s i.rs = false →
      ∃ t e, exec i s = .next t ∧ t.q = s.q.tail ∧ t.db = some e ∧ e.instr = i ∧
        e.op2 = a.value) ∧
    (∀ l, s.rsLd = some l → ResultEntry.names s.rsAlu l.rd = false → i.rs = l.rd →
      busyAfterWriteback s i.rt = false →
      ∃ t e, exec i s = .next t ∧ t.q = s.q.tail ∧ t.db = some e ∧ e.instr = i ∧
        e.op1 = l.value) ∧
    (∀ l, s.rsLd = some l → ResultEntry.names s.rsAlu l.rd = false → i.rt = l.rd →
      busyAfterWriteback s i.rs = false →
      ∃ t e, exec i s = .next t ∧ t.q = s.q.tail ∧ t.db = some e ∧ e.instr = i ∧
        e.op2 = l.value)

/-- R117, R118, R101: a step in RUN that does not fault ends in DONE exactly when the queue and
every slot are then empty, whatever the busy flags, and in RUN otherwise. -/
def Obligations.HaltExactlyAtTerminal : Prop :=
  ∀ s t : State, s.status = .run → (nextInput s).rst = false → step s = .next t →
    t.status ≠ .fault →
    (t.status = .done ↔ t.q = [] ∧ t.db = none ∧ t.ab = none ∧ t.lb = none ∧ t.adr = none ∧
      t.rsLd = none ∧ t.rsAlu = none) ∧ (t.status = .done ∨ t.status = .run)

/-- R36: reset sets `cycle_count` to 0; a committed cycle adds 1 and stops at 2^CW - 1; a faulting
cycle does not; and it does not change in LOAD, DONE or FAULT. -/
def Obligations.CycleCountCountsCommittedCycles : Prop :=
  State.reset.cycleCount = 0 ∧
  ∀ s t : State, (nextInput s).rst = false → step s = .next t →
    (s.status = .run → t.status ≠ .fault →
      t.cycleCount.toNat = min (s.cycleCount.toNat + 1) (2 ^ config.CW - 1)) ∧
    (s.status = .run → t.status = .fault → t.cycleCount = s.cycleCount) ∧
    (s.status ≠ .run → t.cycleCount = s.cycleCount)

/-- R119, R38: `start` emits snapshot 0 with `cycle_count` 0, a committed cycle the snapshot that
holds the whole state at its end, and a faulting cycle and an idle edge none. -/
def Obligations.SnapshotsOfARun : Prop :=
  ∀ s t : State, Reachable s → (nextInput s).rst = false → step s = .next t →
    (s.status = .load → (nextInput s).start = true →
      ∃ n, emitted s t = some n ∧ n.cycleCount = 0 ∧ { n with inputs := t.inputs } = t) ∧
    (s.status = .load → (nextInput s).start = false → emitted s t = none) ∧
    (s.status = .run → t.status ≠ .fault →
      ∃ n, emitted s t = some n ∧ n.cycleCount = satSucc s.cycleCount ∧
        { n with inputs := t.inputs } = t) ∧
    (s.status = .run → t.status = .fault → emitted s t = none) ∧
    (s.status = .done ∨ s.status = .fault → emitted s t = none)

/-! ### 41_alu.md and 42_load.md: the instructions -/

/-- R151: ADD writes `op1 + op2` modulo 2^W, three cycles after decode by R150, which the spec marks
as derived; `exec` is the decode cycle (log entry 7, DEDUCED). -/
def Obligations.AddWritesSum : Prop := AluLifetime 0b000 Instr.add (fun a b => a + b)

/-- R152: SUB writes `op1 - op2` modulo 2^W, three cycles after decode by R150, which the spec marks
as derived; `exec` is the decode cycle (log entry 7, DEDUCED). -/
def Obligations.SubWritesDifference : Prop := AluLifetime 0b001 Instr.sub (fun a b => a - b)

/-- R153: AND writes the bitwise and, three cycles after decode by R150, which the spec marks as
derived; `exec` is the decode cycle (log entry 7, DEDUCED). -/
def Obligations.AndWritesBitwiseAnd : Prop := AluLifetime 0b010 Instr.and (fun a b => a &&& b)

/-- R154: OR writes the bitwise or, three cycles after decode by R150, which the spec marks as
derived; `exec` is the decode cycle (log entry 7, DEDUCED). -/
def Obligations.OrWritesBitwiseOr : Prop := AluLifetime 0b011 Instr.or (fun a b => a ||| b)

/-- R170, R171, R173 (`exec` is the decode cycle: log entry 7, DEDUCED): LD whose address is in
range is accepted with its operands, goes to `LB`, forms its address, reads the word at it into
`RS_LD`, and writes it to `x[rd]` four cycles after decode (an ALU result that retires into the same
register in that cycle is written after it, R104), unless that cycle faults on a younger load. -/
def Obligations.LdWritesMemoryWord : Prop :=
  ∀ (rd rs rt : RegIdx) (s : State), s.status = .run → noReset s → quietAhead s →
    sourcesFree (.ld rd rs rt) s = true →
    addrValid (regAfterWriteback s rs + regAfterWriteback s rt) = true →
    ∃ t1 t2 t3 t4 : State,
      exec (.ld rd rs rt) s = .next t1 ∧ t1.q = s.q.tail ∧
      t1.db = some { instr := .ld rd rs rt, op1 := regAfterWriteback s rs,
                     op2 := regAfterWriteback s rt } ∧
      isBusy t1 rd = true ∧
      step t1 = .next t2 ∧ t2.lb = t1.db ∧
      step t2 = .next t3 ∧
      t3.adr = some { rd := rd, addr := regAfterWriteback s rs + regAfterWriteback s rt } ∧
      step t3 = .next t4 ∧
      t4.rsLd =
        some { rd := rd
               value := s.mem.read (regAfterWriteback s rs + regAfterWriteback s rt).toNat } ∧
      ((∀ e, t4.adr = some e → addrValid e.addr = true) →
        ∃ t5, step t4 = .next t5 ∧ t5.status ≠ .fault ∧
          readReg t5 rd = (match t4.rsAlu with
            | some e => if e.rd = rd then e.value
                else s.mem.read (regAfterWriteback s rs + regAfterWriteback s rt).toNat
            | none => s.mem.read (regAfterWriteback s rs + regAfterWriteback s rt).toNat) ∧
          (isBusy t5 rd = true ↔ Entry.names t5.db rd = true))

/-- R202: LD whose address is out of range, with no older instruction about to fault, ends the run
in the third cycle after its decode with LOAD_ADDR_RANGE and the record of its destination and its
wrapped address. -/
def Obligations.LdOutOfRangeFaults : Prop :=
  ∀ (rd rs rt : RegIdx) (s : State), s.status = .run → noReset s → quietAhead s →
    sourcesFree (.ld rd rs rt) s = true →
    ¬ (0 ≤ (regAfterWriteback s rs + regAfterWriteback s rt).toInt ∧
       (regAfterWriteback s rs + regAfterWriteback s rt).toInt ≤ 7) →
    ∃ t1 t3 t4 : State, exec (.ld rd rs rt) s = .next t1 ∧ steps 2 t1 = .next t3 ∧
      t3.status = .run ∧ step t3 = .next t4 ∧ t4.status = .fault ∧
      t4.faultCode = .loadAddrRange ∧
      t4.faultInfo = { stage := .load, rd := rd,
                       addrOrOpcode := regAfterWriteback s rs + regAfterWriteback s rt }

/-- R171, I5: the effective address is the sum modulo 2^W, and it is in range exactly when the exact
sum is 0..7 or -2^W + k for a k in 0..7; the address is then that sum or that k. -/
def Obligations.EffectiveAddressRange : Prop :=
  ∀ a b : Word,
    (ea a b).toNat = (a.toNat + b.toNat) % 2 ^ config.W ∧
    (addrValid (ea a b) = true ↔
      ∃ k : Nat, k ≤ 7 ∧ (ea a b).toNat = k ∧
        (a.toInt + b.toInt = k ∨ a.toInt + b.toInt = -(2 : Int) ^ config.W + k))

/-! ### 20_memory.md -/

/-- R53, which the spec marks as derived: a step outside LOAD leaves memory as it is, and a step in
LOAD that presents no memory write does too. -/
def Obligations.MemoryUnchangedDuringRun : Prop :=
  ∀ s t : State, (nextInput s).rst = false → step s = .next t →
    s.status ≠ .load ∨ (nextInput s).memValid = false → t.mem = s.mem

/-- What every instruction leaves unchanged (frame; R23, R53, R103, R110, R204): ADD, SUB, AND, OR
and LD change no byte of memory, no input, `dropped_count` never; if their cycle faults, nothing but
the three fault registers; if it does not, no fault register, no register value but those named by
the two result slots, no busy flag but theirs and the instruction's own destination, and of the
queue at most the head. -/
def Obligations.InstructionFrame : Prop :=
  ∀ (i : Instr) (s : State), s.status = .run →
    ∃ t, exec i s = .next t ∧ t.mem = s.mem ∧ (∀ a, t.mem.read a = s.mem.read a) ∧
      t.droppedCount = s.droppedCount ∧ t.inputs = s.inputs ∧
      (t.status = .fault → t = { s with status := .fault, faultCode := t.faultCode,
                                        faultInfo := t.faultInfo }) ∧
      (t.status ≠ .fault →
        t.faultCode = s.faultCode ∧ t.faultInfo = s.faultInfo ∧
        (∀ r, retiring s r = false → readReg t r = readReg s r) ∧
        (∀ r, retiring s r = false → r ≠ i.rd → isBusy t r = isBusy s r) ∧
        (t.q = s.q ∨ t.q = s.q.tail))

/-! ### 60_exceptions.md -/

/-- R204: when a stage raises a fault the step commits only `status`, `fault_code` and `fault_info`:
LOAD_ADDR_RANGE with the address entry when it is out of range (R172), whatever is in `AB` (R206),
else ALU_BAD_OPCODE (R155, R203) when `AB` holds an instruction that is not of the ALU class. That
this instruction is an LD, reserved opcodes having no place in the state, is the model's choice (log
entry 8, DESIGN CHOICE). -/
def Obligations.FaultCommitsOnlyFaultRegisters : Prop :=
  ∀ s : State, s.status = .run → (nextInput s).rst = false →
    (∀ e, s.adr = some e → ¬ (0 ≤ e.addr.toInt ∧ e.addr.toInt ≤ 7) →
      step s = .next { s with
        inputs := s.inputs.tail, status := .fault, faultCode := .loadAddrRange,
        faultInfo := { stage := .load, rd := e.rd, addrOrOpcode := e.addr } }) ∧
    (∀ e, (∀ l, s.adr = some l → 0 ≤ l.addr.toInt ∧ l.addr.toInt ≤ 7) → s.ab = some e →
      e.instr.op = .ld →
      step s = .next { s with
        inputs := s.inputs.tail, status := .fault, faultCode := .aluBadOpcode,
        faultInfo := { stage := .alu, rd := e.instr.rd, addrOrOpcode := 4 } })

/-- R203, R155: the ALU stage that finds an opcode not of the ALU class raises ALU_BAD_OPCODE with
its record, and no reachable state has that fault code. That the opcode is LD, reserved opcodes
having no place in the state, is the model's choice (log entry 8, DESIGN CHOICE). -/
def Obligations.AluBadOpcodeIsUnreachable : Prop :=
  (∀ (s : State) (e : Entry), s.ab = some e → e.instr.op = .ld →
    stageAlu s = .error
      { code := .aluBadOpcode
        info := { stage := .alu, rd := e.instr.rd, addrOrOpcode := 4 } }) ∧
  (∀ s : State, Reachable s → s.faultCode ≠ .aluBadOpcode)

/-- R201, R207, R35: in every reachable state `fault_code` is 1 exactly in FAULT and 0 otherwise, so
2 and 3 never occur, and outside FAULT `fault_info` is all zero. -/
def Obligations.FaultRegistersOfReachableStates : Prop :=
  ∀ s : State, Reachable s →
    (s.status = .fault → s.faultCode.bits = 1) ∧
    (s.status ≠ .fault → s.faultCode.bits = 0 ∧
      s.faultInfo = { stage := .none, rd := 0, addrOrOpcode := 0 })

/-! ### Invariants (10_state.md section 10) -/

/-- The reset state meets the invariant, whatever inputs are to come. -/
def Obligations.ResetMeetsTheInvariant : Prop :=
  ∀ inputs : List PortsIn, Inv { State.reset with inputs := inputs }

/-- R26, R34, R35, R40, R41(a), R118: every clock edge keeps the invariant, from every state that
meets it. -/
def Obligations.StepKeepsTheInvariant : Prop :=
  ∀ s t : State, Inv s → step s = .next t → Inv t

/-- R40, which the spec marks as derived: in every reachable state a valid `AB` holds a non-LD
instruction and a valid `LB` an LD, and after the writeback stage both result slots are empty. -/
def Obligations.SlotClassInvariant : Prop :=
  ∀ s : State, Reachable s →
    (∀ e, s.ab = some e → e.instr.op ≠ .ld) ∧ (∀ e, s.lb = some e → e.instr.op = .ld) ∧
    (stageWriteback s).rsLd = none ∧ (stageWriteback s).rsAlu = none

/-- R41(a), (b), which the spec marks as derived: in a reachable state a busy register has an
in-flight writer; and once decode has accepted an instruction its destination stays busy over any
number of edges, as long as none of them starts with a result for that register in a result slot. -/
def Obligations.BusyTracksWritersInFlight : Prop :=
  (∀ s : State, Reachable s → ∀ r, isBusy s r = true → inFlight s r = true) ∧
  (∀ (n : Nat) (i : Instr) (s t1 t : State), s.status = .run → noReset s →
    noFaultNow s → sourcesFree i s = true → exec i s = .next t1 → steps n t1 = .next t →
    (∀ m < n, ∀ u, steps m t1 = .next u → retiring u i.rd = false) → isBusy t i.rd = true)

/-- R42, R247, which the spec marks as derived: a reachable state with status DONE has an empty
queue, empty slots and no busy register. -/
def Obligations.DoneStateIsDrained : Prop :=
  ∀ s : State, Reachable s → s.status = .done →
    s.q = [] ∧ slotsEmpty s ∧ ∀ r, isBusy s r = false

/-- R37 and R36: `dropped_count` and `cycle_count` affect no other state: two states that differ
only in them step to states that differ only in them. -/
def Obligations.CountersAffectNothingElse : Prop :=
  ∀ s s' t t' : State, eraseCounters s = eraseCounters s' → step s = .next t →
    step s' = .next t' → eraseCounters t = eraseCounters t'

/-! ### Timing and hazards (70_reset_and_hazards.md) -/

/-- R244, which the spec marks as derived: let `i`, accepted by decode, be the only in-flight writer
of its destination, let the next instruction `h` read it, and let `h`'s other source be free. Then
`h` stays at the head of the queue with nothing entering `DB` for 2 cycles when `i` is of the ALU
class and for 3 when it is LD (its address in range), and is accepted in the cycle after them. -/
def Obligations.StallDistance : Prop :=
  ∀ (i h : Instr) (rest : List Instr) (s t1 : State), s.status = .run → noReset s →
    quietAhead s → sourcesFree i s = true →
    (i.op = .ld →
      addrValid (regAfterWriteback s i.rs + regAfterWriteback s i.rt) = true) →
    exec i s = .next t1 → t1.q = h :: rest → inFlightPastDecode t1 i.rd = false →
    (h.rs = i.rd ∨ h.rt = i.rd) →
    (h.rs ≠ i.rd → isBusy t1 h.rs = false) → (h.rt ≠ i.rd → isBusy t1 h.rt = false) →
    let stalls := if i.op = .ld then 3 else 2
    (∀ k, 1 ≤ k → k ≤ stalls → ∃ u, steps k t1 = .next u ∧ u.q = h :: rest ∧ u.db = none) ∧
    ∃ u e, steps (stalls + 1) t1 = .next u ∧ u.q = rest ∧ u.db = some e ∧ e.instr = h

/-- R245, R247, which the spec marks as derived: from the initial state of a run of `N`
instructions, without a reset, the run is in DONE or FAULT within 4N + 1 cycles. -/
def Obligations.RunEndsWithinBound : Prop :=
  ∀ s : State, InitialState s → noReset s →
    ∃ k t, k ≤ 4 * s.q.length + 1 ∧ steps k s = .next t ∧
      (t.status = .done ∨ t.status = .fault)

/-- R245, which the spec marks as derived: a run of `N` instructions that ends in DONE took at least
N + 3 and at most 4N + 1 cycles. -/
def Obligations.DoneRunCycleCount : Prop :=
  ∀ (s : State) (k : Nat) (t : State), InitialState s → noReset s → steps k s = .next t →
    t.status = .done →
    s.q.length + 3 ≤ t.cycleCount.toNat ∧ t.cycleCount.toNat ≤ 4 * s.q.length + 1

/-- R241, which the spec marks as derived: a run of a program that meets the condition of rule R241,
if it ends in DONE, leaves every register at the value that running its instructions one after
another gives. -/
def Obligations.HazardFreeRunIsSequential : Prop :=
  ∀ (s : State) (k : Nat) (t : State), InitialState s → noReset s → hazardFree s.q = true →
    steps k s = .next t → t.status = .done →
    ∀ r, readReg t r = seqRun s.q (readReg s) s.mem r
end

