-- ==== Sys2Proof/Laws/State.lean ====
section
/-! SUPPORT. What each update of one field leaves alone: one lemma per field, true by rfl. -/

namespace Sys2Proof.Laws

open Sys2Proof Sys2Proof.Machine

@[simp] theorem writeReg_q (s : State) (r : RegIdx) (v : Word) : (writeReg s r v).q = s.q := rfl
@[simp] theorem writeReg_db (s : State) (r : RegIdx) (v : Word) : (writeReg s r v).db = s.db := rfl
@[simp] theorem writeReg_ab (s : State) (r : RegIdx) (v : Word) : (writeReg s r v).ab = s.ab := rfl
@[simp] theorem writeReg_lb (s : State) (r : RegIdx) (v : Word) : (writeReg s r v).lb = s.lb := rfl
@[simp] theorem writeReg_adr (s : State) (r : RegIdx) (v : Word) : (writeReg s r v).adr = s.adr := rfl
@[simp] theorem writeReg_rsLd (s : State) (r : RegIdx) (v : Word) : (writeReg s r v).rsLd = s.rsLd := rfl
@[simp] theorem writeReg_rsAlu (s : State) (r : RegIdx) (v : Word) : (writeReg s r v).rsAlu = s.rsAlu := rfl
@[simp] theorem writeReg_mem (s : State) (r : RegIdx) (v : Word) : (writeReg s r v).mem = s.mem := rfl
@[simp] theorem writeReg_status (s : State) (r : RegIdx) (v : Word) : (writeReg s r v).status = s.status := rfl
@[simp] theorem writeReg_faultCode (s : State) (r : RegIdx) (v : Word) : (writeReg s r v).faultCode = s.faultCode := rfl
@[simp] theorem writeReg_faultInfo (s : State) (r : RegIdx) (v : Word) : (writeReg s r v).faultInfo = s.faultInfo := rfl
@[simp] theorem writeReg_cycleCount (s : State) (r : RegIdx) (v : Word) : (writeReg s r v).cycleCount = s.cycleCount := rfl
@[simp] theorem writeReg_droppedCount (s : State) (r : RegIdx) (v : Word) : (writeReg s r v).droppedCount = s.droppedCount := rfl
@[simp] theorem writeReg_inputs (s : State) (r : RegIdx) (v : Word) : (writeReg s r v).inputs = s.inputs := rfl

@[simp] theorem putBusy_q (s : State) (r : RegIdx) (b : Bool) : (putBusy s r b).q = s.q := rfl
@[simp] theorem putBusy_db (s : State) (r : RegIdx) (b : Bool) : (putBusy s r b).db = s.db := rfl
@[simp] theorem putBusy_ab (s : State) (r : RegIdx) (b : Bool) : (putBusy s r b).ab = s.ab := rfl
@[simp] theorem putBusy_lb (s : State) (r : RegIdx) (b : Bool) : (putBusy s r b).lb = s.lb := rfl
@[simp] theorem putBusy_adr (s : State) (r : RegIdx) (b : Bool) : (putBusy s r b).adr = s.adr := rfl
@[simp] theorem putBusy_rsLd (s : State) (r : RegIdx) (b : Bool) : (putBusy s r b).rsLd = s.rsLd := rfl
@[simp] theorem putBusy_rsAlu (s : State) (r : RegIdx) (b : Bool) : (putBusy s r b).rsAlu = s.rsAlu := rfl
@[simp] theorem putBusy_mem (s : State) (r : RegIdx) (b : Bool) : (putBusy s r b).mem = s.mem := rfl
@[simp] theorem putBusy_status (s : State) (r : RegIdx) (b : Bool) : (putBusy s r b).status = s.status := rfl
@[simp] theorem putBusy_faultCode (s : State) (r : RegIdx) (b : Bool) : (putBusy s r b).faultCode = s.faultCode := rfl
@[simp] theorem putBusy_faultInfo (s : State) (r : RegIdx) (b : Bool) : (putBusy s r b).faultInfo = s.faultInfo := rfl
@[simp] theorem putBusy_cycleCount (s : State) (r : RegIdx) (b : Bool) : (putBusy s r b).cycleCount = s.cycleCount := rfl
@[simp] theorem putBusy_droppedCount (s : State) (r : RegIdx) (b : Bool) : (putBusy s r b).droppedCount = s.droppedCount := rfl
@[simp] theorem putBusy_inputs (s : State) (r : RegIdx) (b : Bool) : (putBusy s r b).inputs = s.inputs := rfl

@[simp] theorem retire_q (s : State) (e : ResultEntry) : (retire e s).q = s.q := rfl
@[simp] theorem retire_db (s : State) (e : ResultEntry) : (retire e s).db = s.db := rfl
@[simp] theorem retire_ab (s : State) (e : ResultEntry) : (retire e s).ab = s.ab := rfl
@[simp] theorem retire_lb (s : State) (e : ResultEntry) : (retire e s).lb = s.lb := rfl
@[simp] theorem retire_adr (s : State) (e : ResultEntry) : (retire e s).adr = s.adr := rfl
@[simp] theorem retire_rsLd (s : State) (e : ResultEntry) : (retire e s).rsLd = s.rsLd := rfl
@[simp] theorem retire_rsAlu (s : State) (e : ResultEntry) : (retire e s).rsAlu = s.rsAlu := rfl
@[simp] theorem retire_mem (s : State) (e : ResultEntry) : (retire e s).mem = s.mem := rfl
@[simp] theorem retire_status (s : State) (e : ResultEntry) : (retire e s).status = s.status := rfl
@[simp] theorem retire_faultCode (s : State) (e : ResultEntry) : (retire e s).faultCode = s.faultCode := rfl
@[simp] theorem retire_faultInfo (s : State) (e : ResultEntry) : (retire e s).faultInfo = s.faultInfo := rfl
@[simp] theorem retire_cycleCount (s : State) (e : ResultEntry) : (retire e s).cycleCount = s.cycleCount := rfl
@[simp] theorem retire_droppedCount (s : State) (e : ResultEntry) : (retire e s).droppedCount = s.droppedCount := rfl
@[simp] theorem retire_inputs (s : State) (e : ResultEntry) : (retire e s).inputs = s.inputs := rfl

@[simp] theorem popQueue_db (s : State) : (popQueue s).db = s.db := rfl
@[simp] theorem popQueue_ab (s : State) : (popQueue s).ab = s.ab := rfl
@[simp] theorem popQueue_lb (s : State) : (popQueue s).lb = s.lb := rfl
@[simp] theorem popQueue_adr (s : State) : (popQueue s).adr = s.adr := rfl
@[simp] theorem popQueue_rsLd (s : State) : (popQueue s).rsLd = s.rsLd := rfl
@[simp] theorem popQueue_rsAlu (s : State) : (popQueue s).rsAlu = s.rsAlu := rfl
@[simp] theorem popQueue_rf (s : State) : (popQueue s).rf = s.rf := rfl
@[simp] theorem popQueue_mem (s : State) : (popQueue s).mem = s.mem := rfl
@[simp] theorem popQueue_status (s : State) : (popQueue s).status = s.status := rfl
@[simp] theorem popQueue_faultCode (s : State) : (popQueue s).faultCode = s.faultCode := rfl
@[simp] theorem popQueue_faultInfo (s : State) : (popQueue s).faultInfo = s.faultInfo := rfl
@[simp] theorem popQueue_cycleCount (s : State) : (popQueue s).cycleCount = s.cycleCount := rfl
@[simp] theorem popQueue_droppedCount (s : State) : (popQueue s).droppedCount = s.droppedCount := rfl
@[simp] theorem popQueue_inputs (s : State) : (popQueue s).inputs = s.inputs := rfl

@[simp] theorem dropInput_q (s : State) : (dropInput s).q = s.q := rfl
@[simp] theorem dropInput_db (s : State) : (dropInput s).db = s.db := rfl
@[simp] theorem dropInput_ab (s : State) : (dropInput s).ab = s.ab := rfl
@[simp] theorem dropInput_lb (s : State) : (dropInput s).lb = s.lb := rfl
@[simp] theorem dropInput_adr (s : State) : (dropInput s).adr = s.adr := rfl
@[simp] theorem dropInput_rsLd (s : State) : (dropInput s).rsLd = s.rsLd := rfl
@[simp] theorem dropInput_rsAlu (s : State) : (dropInput s).rsAlu = s.rsAlu := rfl
@[simp] theorem dropInput_rf (s : State) : (dropInput s).rf = s.rf := rfl
@[simp] theorem dropInput_mem (s : State) : (dropInput s).mem = s.mem := rfl
@[simp] theorem dropInput_status (s : State) : (dropInput s).status = s.status := rfl
@[simp] theorem dropInput_faultCode (s : State) : (dropInput s).faultCode = s.faultCode := rfl
@[simp] theorem dropInput_faultInfo (s : State) : (dropInput s).faultInfo = s.faultInfo := rfl
@[simp] theorem dropInput_cycleCount (s : State) : (dropInput s).cycleCount = s.cycleCount := rfl
@[simp] theorem dropInput_droppedCount (s : State) : (dropInput s).droppedCount = s.droppedCount := rfl

@[simp] theorem setMem_q (s : State) (a : MemIdx) (v : Word) : (setMem a v s).q = s.q := rfl
@[simp] theorem setMem_db (s : State) (a : MemIdx) (v : Word) : (setMem a v s).db = s.db := rfl
@[simp] theorem setMem_ab (s : State) (a : MemIdx) (v : Word) : (setMem a v s).ab = s.ab := rfl
@[simp] theorem setMem_lb (s : State) (a : MemIdx) (v : Word) : (setMem a v s).lb = s.lb := rfl
@[simp] theorem setMem_adr (s : State) (a : MemIdx) (v : Word) : (setMem a v s).adr = s.adr := rfl
@[simp] theorem setMem_rsLd (s : State) (a : MemIdx) (v : Word) : (setMem a v s).rsLd = s.rsLd := rfl
@[simp] theorem setMem_rsAlu (s : State) (a : MemIdx) (v : Word) : (setMem a v s).rsAlu = s.rsAlu := rfl
@[simp] theorem setMem_rf (s : State) (a : MemIdx) (v : Word) : (setMem a v s).rf = s.rf := rfl
@[simp] theorem setMem_status (s : State) (a : MemIdx) (v : Word) : (setMem a v s).status = s.status := rfl
@[simp] theorem setMem_faultCode (s : State) (a : MemIdx) (v : Word) : (setMem a v s).faultCode = s.faultCode := rfl
@[simp] theorem setMem_faultInfo (s : State) (a : MemIdx) (v : Word) : (setMem a v s).faultInfo = s.faultInfo := rfl
@[simp] theorem setMem_cycleCount (s : State) (a : MemIdx) (v : Word) : (setMem a v s).cycleCount = s.cycleCount := rfl
@[simp] theorem setMem_droppedCount (s : State) (a : MemIdx) (v : Word) : (setMem a v s).droppedCount = s.droppedCount := rfl
@[simp] theorem setMem_inputs (s : State) (a : MemIdx) (v : Word) : (setMem a v s).inputs = s.inputs := rfl

@[simp] theorem faultEntry_q (s : State) (f : FaultRecord) : (faultEntry f s).q = s.q := rfl
@[simp] theorem faultEntry_db (s : State) (f : FaultRecord) : (faultEntry f s).db = s.db := rfl
@[simp] theorem faultEntry_ab (s : State) (f : FaultRecord) : (faultEntry f s).ab = s.ab := rfl
@[simp] theorem faultEntry_lb (s : State) (f : FaultRecord) : (faultEntry f s).lb = s.lb := rfl
@[simp] theorem faultEntry_adr (s : State) (f : FaultRecord) : (faultEntry f s).adr = s.adr := rfl
@[simp] theorem faultEntry_rsLd (s : State) (f : FaultRecord) : (faultEntry f s).rsLd = s.rsLd := rfl
@[simp] theorem faultEntry_rsAlu (s : State) (f : FaultRecord) : (faultEntry f s).rsAlu = s.rsAlu := rfl
@[simp] theorem faultEntry_rf (s : State) (f : FaultRecord) : (faultEntry f s).rf = s.rf := rfl
@[simp] theorem faultEntry_mem (s : State) (f : FaultRecord) : (faultEntry f s).mem = s.mem := rfl
@[simp] theorem faultEntry_cycleCount (s : State) (f : FaultRecord) : (faultEntry f s).cycleCount = s.cycleCount := rfl
@[simp] theorem faultEntry_droppedCount (s : State) (f : FaultRecord) : (faultEntry f s).droppedCount = s.droppedCount := rfl
@[simp] theorem faultEntry_inputs (s : State) (f : FaultRecord) : (faultEntry f s).inputs = s.inputs := rfl

@[simp] theorem startRun_q (s : State) : (startRun s).q = s.q := rfl
@[simp] theorem startRun_db (s : State) : (startRun s).db = s.db := rfl
@[simp] theorem startRun_ab (s : State) : (startRun s).ab = s.ab := rfl
@[simp] theorem startRun_lb (s : State) : (startRun s).lb = s.lb := rfl
@[simp] theorem startRun_adr (s : State) : (startRun s).adr = s.adr := rfl
@[simp] theorem startRun_rsLd (s : State) : (startRun s).rsLd = s.rsLd := rfl
@[simp] theorem startRun_rsAlu (s : State) : (startRun s).rsAlu = s.rsAlu := rfl
@[simp] theorem startRun_rf (s : State) : (startRun s).rf = s.rf := rfl
@[simp] theorem startRun_mem (s : State) : (startRun s).mem = s.mem := rfl
@[simp] theorem startRun_faultCode (s : State) : (startRun s).faultCode = s.faultCode := rfl
@[simp] theorem startRun_faultInfo (s : State) : (startRun s).faultInfo = s.faultInfo := rfl
@[simp] theorem startRun_cycleCount (s : State) : (startRun s).cycleCount = s.cycleCount := rfl
@[simp] theorem startRun_droppedCount (s : State) : (startRun s).droppedCount = s.droppedCount := rfl
@[simp] theorem startRun_inputs (s : State) : (startRun s).inputs = s.inputs := rfl

@[simp] theorem popQueue_q (s : State) : (popQueue s).q = s.q.tail := rfl
@[simp] theorem dropInput_inputs (s : State) : (dropInput s).inputs = s.inputs.tail := rfl
@[simp] theorem setMem_mem (s : State) (a : MemIdx) (v : Word) :
    (setMem a v s).mem = s.mem.write a.val v := rfl
@[simp] theorem faultEntry_status (s : State) (f : FaultRecord) :
    (faultEntry f s).status = .fault := rfl
@[simp] theorem faultEntry_faultCode (s : State) (f : FaultRecord) :
    (faultEntry f s).faultCode = f.code := rfl
@[simp] theorem faultEntry_faultInfo (s : State) (f : FaultRecord) :
    (faultEntry f s).faultInfo = f.info := rfl
@[simp] theorem startRun_status (s : State) :
    (startRun s).status = if terminal s then .done else .run := rfl

/-- Reading a register looks only at the register file. -/
theorem readReg_congr {s t : State} (h : s.rf = t.rf) (r : RegIdx) : readReg s r = readReg t r := by
  simp [readReg, h]

/-- Testing a busy flag looks only at the register file. -/
theorem isBusy_congr {s t : State} (h : s.rf = t.rf) (r : RegIdx) : isBusy s r = isBusy t r := by
  simp [isBusy, h]

@[simp] theorem readReg_writeReg (s : State) (r r' : RegIdx) (v : Word) :
    readReg (writeReg s r v) r' = if r' = r then v else readReg s r' := by
  by_cases h : r' = r
  · subst h; simp [readReg, writeReg]
  · have : r.val ≠ r'.val := fun e => h (Fin.ext e.symm)
    simp [readReg, writeReg, h, Vector.getElem_set_ne, this]

@[simp] theorem isBusy_writeReg (s : State) (r r' : RegIdx) (v : Word) :
    isBusy (writeReg s r v) r' = isBusy s r' := by
  by_cases h : r' = r
  · subst h; simp [isBusy, writeReg]
  · have : r.val ≠ r'.val := fun e => h (Fin.ext e.symm)
    simp [isBusy, writeReg, Vector.getElem_set_ne, this]

@[simp] theorem readReg_putBusy (s : State) (r r' : RegIdx) (b : Bool) :
    readReg (putBusy s r b) r' = readReg s r' := by
  by_cases h : r' = r
  · subst h; simp [readReg, putBusy]
  · have : r.val ≠ r'.val := fun e => h (Fin.ext e.symm)
    simp [readReg, putBusy, Vector.getElem_set_ne, this]

@[simp] theorem isBusy_putBusy (s : State) (r r' : RegIdx) (b : Bool) :
    isBusy (putBusy s r b) r' = if r' = r then b else isBusy s r' := by
  by_cases h : r' = r
  · subst h; simp [isBusy, putBusy]
  · have : r.val ≠ r'.val := fun e => h (Fin.ext e.symm)
    simp [isBusy, putBusy, h, Vector.getElem_set_ne, this]

@[simp] theorem readReg_retire (s : State) (e : ResultEntry) (r : RegIdx) :
    readReg (retire e s) r = if r = e.rd then e.value else readReg s r := by
  simp [retire]

@[simp] theorem isBusy_retire (s : State) (e : ResultEntry) (r : RegIdx) :
    isBusy (retire e s) r = if r = e.rd then false else isBusy s r := by
  simp [retire]

@[simp] theorem readReg_popQueue (s : State) (r : RegIdx) :
    readReg (popQueue s) r = readReg s r := rfl
@[simp] theorem isBusy_popQueue (s : State) (r : RegIdx) :
    isBusy (popQueue s) r = isBusy s r := rfl

/-- A counter that has room counts up by one, a full one stays. -/
theorem satSucc_toNat (c : Counter) : (satSucc c).toNat = min (c.toNat + 1) (2 ^ config.CW - 1) := by
  unfold satSucc
  split
  · next h => subst h; simp
  · next h =>
    have hlt : c.toNat < 2 ^ config.CW := c.isLt
    have hne : c.toNat ≠ 2 ^ config.CW - 1 := fun e => h (BitVec.eq_of_toNat_eq (by simpa using e))
    have hm : (c.toNat + 1) % 2 ^ config.CW = c.toNat + 1 := Nat.mod_eq_of_lt (by omega)
    simp only [BitVec.toNat_add]
    simp at hm hne hlt ⊢
    omega

end Sys2Proof.Laws
end

