-- ==== Sys2Proof/Laws/Memory.lean ====
section
/-! SUPPORT. Memory: a read after a write, and that every memory operation keeps the canonical form. -/

namespace Sys2Proof.Laws

open Sys2Proof Sys2Proof.Machine

/-- Every address listed in `m` is above `a`. -/
def Above (a : Nat) (m : Memory) : Prop := ∀ c ∈ m, a < c.1

/-- The canonical form of a list with a first pair. -/
theorem wf_cons {b : Nat} {u : Word} {m : Memory} :
    Memory.wf ((b, u) :: m) ↔ (b < NMEM ∧ u ≠ 0) ∧ Above b m ∧ Memory.wf m := by
  simp only [Memory.wf, Above, List.map_cons, List.pairwise_cons, List.mem_map, List.mem_cons,
    forall_eq_or_imp, forall_exists_index, and_imp, forall_apply_eq_imp_iff₂]
  tauto

/-- An address below every listed one reads as unlisted. -/
theorem read_of_above {a : Nat} : ∀ {m : Memory}, Above a m → m.read a = 0
  | [], _ => rfl
  | (b, v) :: m, h => by
    have hb : a < b := h (b, v) (by simp)
    have : Above a m := fun c hc => h c (by simp [hc])
    simp [Memory.read, Nat.ne_of_gt hb, read_of_above this]

/-- Putting a word in front of the addresses above it. -/
theorem read_memCons {a b : Nat} {v : Word} {m : Memory} (h : Above a m) :
    (Memory.cons a v m).read b = if b = a then v else m.read b := by
  unfold Memory.cons
  split
  · next hv =>
    split
    · next hb => subst hb; rw [read_of_above h, hv]; rfl
    · rfl
  · simp only [Memory.read, eq_comm]

/-- A write gives the word at its own address and leaves every other address alone. -/
theorem read_write {a b : Nat} {v : Word} :
    ∀ {m : Memory}, m.wf → (m.write a v).read b = if b = a then v else m.read b
  | [], _ => by simpa [Memory.write] using read_memCons (m := []) (fun _ h => by simp at h)
  | (k, u) :: m, h => by
    obtain ⟨_, habove, hm⟩ := wf_cons.1 h
    unfold Memory.write
    split
    · next hlt =>
      refine read_memCons fun c hc => ?_
      rcases List.mem_cons.1 hc with rfl | hc
      · exact hlt
      · exact Nat.lt_trans hlt (habove c hc)
    · split
      · next hne heq =>
        subst heq
        rw [read_memCons habove]
        by_cases hb : b = a
        · simp [hb]
        · simp [Memory.read, hb, Ne.symm hb]
      · next hlt hne =>
        simp only [Memory.read, read_write hm]
        by_cases hk : k = b
        · subst hk
          simp [Ne.symm hne]
        · simp [hk]

/-- The addresses a write leaves listed are the old ones and its own. -/
theorem above_write {a k : Nat} {v : Word} (hka : k < a) :
    ∀ {m : Memory}, Above k m → Above k (m.write a v)
  | [], _ => by
    unfold Memory.write Memory.cons
    split <;> intro c hc <;> simp at hc
    subst hc; exact hka
  | (b, u) :: m, h => by
    have hm : Above k m := fun c hc => h c (by simp [hc])
    have hb : k < b := h (b, u) (by simp)
    have hcons : ∀ {l : Memory}, Above k l → Above k (Memory.cons a v l) := by
      intro l hl c hc
      unfold Memory.cons at hc
      split at hc
      · exact hl c hc
      · rcases List.mem_cons.1 hc with rfl | hc
        · exact hka
        · exact hl c hc
    unfold Memory.write
    split
    · exact hcons h
    · split
      · exact hcons hm
      · intro c hc
        rcases List.mem_cons.1 hc with rfl | hc
        · exact hb
        · exact above_write hka hm c hc

/-- A pair in front of the addresses above it keeps the canonical form. -/
theorem wf_memCons {a : Nat} {v : Word} {m : Memory} (ha : a < NMEM) (h : Above a m) (hm : m.wf) :
    (Memory.cons a v m).wf := by
  unfold Memory.cons
  split
  · exact hm
  · next hv => exact wf_cons.2 ⟨⟨ha, hv⟩, h, hm⟩

/-- A write inside the address space keeps the canonical form. -/
theorem wf_write {a : Nat} {v : Word} (ha : a < NMEM) :
    ∀ {m : Memory}, m.wf → (m.write a v).wf
  | [], h => wf_memCons ha (fun _ hc => by simp at hc) h
  | (k, u) :: m, h => by
    obtain ⟨hk, habove, hm⟩ := wf_cons.1 h
    unfold Memory.write
    split
    · next hlt =>
      refine wf_memCons ha (fun c hc => ?_) h
      rcases List.mem_cons.1 hc with rfl | hc
      · exact hlt
      · exact Nat.lt_trans hlt (habove c hc)
    · split
      · next _ heq => subst heq; exact wf_memCons ha habove hm
      · next hlt hne => exact wf_cons.2 ⟨hk, above_write (by omega) habove, wf_write ha hm⟩

/-- Memories in canonical form that read alike are equal. -/
theorem wf_ext : ∀ {m n : Memory}, m.wf → n.wf → (∀ a, m.read a = n.read a) → m = n
  | [], [], _, _, _ => rfl
  | [], (b, v) :: n, _, hn, h => by
    have := h b
    simp [Memory.read, Memory.unlisted] at this
    exact absurd this.symm (wf_cons.1 hn).1.2
  | (b, v) :: m, [], hm, _, h => by
    have := h b
    simp [Memory.read, Memory.unlisted] at this
    exact absurd this (wf_cons.1 hm).1.2
  | (a, u) :: m, (b, v) :: n, hm, hn, h => by
    obtain ⟨⟨_, hu⟩, ham, hm'⟩ := wf_cons.1 hm
    obtain ⟨⟨_, hv⟩, hbn, hn'⟩ := wf_cons.1 hn
    have hab : a = b := by
      rcases Nat.lt_trichotomy a b with hlt | heq | hgt
      · have := h a
        rw [read_of_above (m := (b, v) :: n)] at this
        · simp [Memory.read] at this; exact absurd this hu
        · intro c hc
          rcases List.mem_cons.1 hc with rfl | hc
          · exact hlt
          · exact Nat.lt_trans hlt (hbn c hc)
      · exact heq
      · have := h b
        rw [read_of_above (m := (a, u) :: m)] at this
        · simp [Memory.read] at this; exact absurd this.symm hv
        · intro c hc
          rcases List.mem_cons.1 hc with rfl | hc
          · exact hgt
          · exact Nat.lt_trans hgt (ham c hc)
    subst hab
    have huv : u = v := by simpa [Memory.read] using h a
    subst huv
    congr 1
    refine wf_ext hm' hn' fun k => ?_
    by_cases hk : a = k
    · subst hk; rw [read_of_above ham, read_of_above hbn]
    · simpa [Memory.read, hk] using h k

/-- The reset memory is in canonical form. -/
theorem reset_mem_wf : State.reset.mem.wf := by simp [State.reset, Memory.wf]

end Sys2Proof.Laws
end

