-- ==== Sys2Proof/Laws/PerInstr.lean ====
section
/-! SUPPORT. Statements about every instruction as syntax, one lemma per constructor. -/

/-- The instruction's word carries its opcode's pattern under the mask of its row of the opcode
table (R73). -/
def Sys2Proof.Laws.RowMatch.Statement (i : Sys2Proof.Instr) : Prop :=
  ∃ row ∈ Sys2Proof.opcodeTable,
    row.opcode = i.op ∧ Sys2Proof.encode i &&& row.mask = row.pattern

namespace Sys2Proof.Laws.RowMatch

open Sys2Proof

/-- The mask keeps the opcode field alone. -/
theorem mask_append (op d a b : BitVec 3) :
    ((op ++ d ++ a ++ b : BitVec (3 + 3 + 3 + 3)) &&& (0xE00 : InstrWord)) =
      (op ++ (0 : BitVec 9) : BitVec (3 + 9)) := by
  revert op d a b; decide

theorem add (rd rs rt : RegIdx) : Statement (.add rd rs rt) :=
  ⟨_, .head _, rfl,
    (mask_append (Opcode.bits .add) (regBits rd) (regBits rs) (regBits rt)).trans rfl⟩

theorem sub (rd rs rt : RegIdx) : Statement (.sub rd rs rt) :=
  ⟨_, .tail _ (.head _), rfl,
    (mask_append (Opcode.bits .sub) (regBits rd) (regBits rs) (regBits rt)).trans rfl⟩

theorem and (rd rs rt : RegIdx) : Statement (.and rd rs rt) :=
  ⟨_, .tail _ (.tail _ (.head _)), rfl,
    (mask_append (Opcode.bits .and) (regBits rd) (regBits rs) (regBits rt)).trans rfl⟩

theorem or (rd rs rt : RegIdx) : Statement (.or rd rs rt) :=
  ⟨_, .tail _ (.tail _ (.tail _ (.head _))), rfl,
    (mask_append (Opcode.bits .or) (regBits rd) (regBits rs) (regBits rt)).trans rfl⟩

theorem ld (rd rs rt : RegIdx) : Statement (.ld rd rs rt) :=
  ⟨_, .tail _ (.tail _ (.tail _ (.tail _ (.head _)))), rfl,
    (mask_append (Opcode.bits .ld) (regBits rd) (regBits rs) (regBits rt)).trans rfl⟩

end Sys2Proof.Laws.RowMatch
end

