-- ==== Sys2Proof/Laws/Pipeline.lean ====
section
/-! SUPPORT. What each stage and the cycle can do, said once. -/

namespace Sys2Proof.Laws

open Sys2Proof Sys2Proof.Machine

/-- A slot's result retires, if it holds one. -/
def retireSlot (o : Option ResultEntry) (s : State) : State := o.elim s fun e => retire e s

/-- Writeback touches the register file and the result slots only. -/
theorem stageWriteback_shape (s : State) :
    stageWriteback s = { s with rf := (stageWriteback s).rf, rsLd := none, rsAlu := none } := by
  unfold stageWriteback writebackAluSlot writebackLoadSlot
  cases hl : s.rsLd <;> cases ha : s.rsAlu <;> simp only [hl, ha, retire, putBusy, writeReg]
  cases s; simp_all

/-- The register file after writeback: the load slot retires first, then the ALU slot. -/
theorem stageWriteback_rf (s : State) :
    (stageWriteback s).rf = (retireSlot s.rsAlu (retireSlot s.rsLd s)).rf := by
  unfold stageWriteback writebackAluSlot writebackLoadSlot retireSlot
  cases hl : s.rsLd <;> cases ha : s.rsAlu <;> simp only [ha, retire_rsAlu] <;> rfl

/-- Decode's view of a register value. -/
@[simp] theorem readReg_stageWriteback (s : State) (r : RegIdx) :
    readReg (stageWriteback s) r = regAfterWriteback s r := by
  rw [readReg_congr (stageWriteback_rf s)]
  unfold retireSlot regAfterWriteback
  cases s.rsLd <;> cases s.rsAlu <;> simp [eq_comm]

/-- Decode's view of a busy flag. -/
@[simp] theorem isBusy_stageWriteback (s : State) (r : RegIdx) :
    isBusy (stageWriteback s) r = busyAfterWriteback s r := by
  have flip : ∀ e : ResultEntry, (e.rd == r) = decide (r = e.rd) := fun e => by
    rw [beq_eq_decide, decide_eq_decide]; exact eq_comm
  rw [isBusy_congr (stageWriteback_rf s)]
  unfold retireSlot busyAfterWriteback retiring ResultEntry.names
  cases s.rsLd with
  | none =>
    cases s.rsAlu with
    | none => simp
    | some a => by_cases h : r = a.rd <;> simp [flip, h]
  | some l =>
    cases s.rsAlu with
    | none => by_cases h : r = l.rd <;> simp [flip, h]
    | some a =>
      simp only [Option.elim_some, isBusy_retire, Option.any_some, flip]
      by_cases h : r = a.rd <;> by_cases h' : r = l.rd <;> simp only [h, if_true, if_false] <;> simp_all

/-- The state the decode stage of a cycle without a fault starts from: registers as writeback left
them, every occupant in its next slot, `DB` empty. -/
def moved (s : State) : State :=
  { s with
    rf := (stageWriteback s).rf
    rsLd := s.adr.map fun e => { rd := e.rd, value := memRead s e.addr }
    rsAlu := s.ab.bind fun e =>
      (alu e.instr.op e.op1 e.op2).map fun v => { rd := e.instr.rd, value := v }
    adr := s.lb.map fun e => { rd := e.instr.rd, addr := ea e.op1 e.op2 }
    lb := s.db.filter fun e => e.instr.op.isLoad
    ab := s.db.filter fun e => !e.instr.op.isLoad
    db := none }

/-- `alu` has a value for every ALU-class opcode. -/
theorem alu_isSome {op : Opcode} (h : op.isLoad = false) (a b : Word) :
    ∃ v, alu op a b = some v := by
  cases op <;> simp [Opcode.isLoad, alu] at h ⊢

/-- Without a fault the stages before decode lead to `moved`. -/
theorem stagesBeforeDecode_of_noFault {s : State} (h : noFaultNow s) :
    stagesBeforeDecode s = .ok (moved s) := by
  obtain ⟨hadr, hab⟩ := h
  have hl : stageLoad (stageWriteback s) =
      .ok { stageWriteback s with
            rsLd := s.adr.map fun e => { rd := e.rd, value := memRead s e.addr }, adr := none } := by
    rw [stageWriteback_shape]
    unfold stageLoad
    cases hs : s.adr with
    | none => simp
    | some e => simp [hadr e hs, memRead]
  obtain ⟨a, hs⟩ : ∃ a, a = s.ab.bind fun e =>
      (alu e.instr.op e.op1 e.op2).map fun v => ({ rd := e.instr.rd, value := v } : ResultEntry) :=
    ⟨_, rfl⟩
  have ha : ∀ u : State, u.ab = s.ab → u.rsAlu = none →
      stageAlu u = .ok { u with rsAlu := a, ab := none } := by
    intro u hu hn
    unfold stageAlu
    rw [hu, hs]
    cases he : s.ab with
    | none => cases u; simp_all
    | some e =>
      obtain ⟨v, hv⟩ := alu_isSome (hab e he) e.op1 e.op2
      simp [hv]
  unfold stagesBeforeDecode
  rw [hl, stageWriteback_shape]
  simp only [ha]
  unfold stageAddrCalc moved stageIssueLoad stageIssueAlu
  rw [← hs]
  cases s.lb with
  | none =>
    cases s.db with
    | none => simp
    | some d => cases hop : d.instr.op.isLoad <;> simp [hop, Option.filter]
  | some l =>
    cases s.db with
    | none => simp
    | some d => cases hop : d.instr.op.isLoad <;> simp [hop, Option.filter]

/-- A cycle without a fault. -/
theorem cycle_of_noFault {s : State} (d : State → State) (h : noFaultNow s) :
    cycle d s = finishCycle (d (moved s)) := by
  simp [cycle, stagesBeforeDecode_of_noFault h]

/-- A cycle with an out-of-range address in `ADR`, whatever is in `AB`. -/
theorem cycle_of_loadFault {s : State} {e : AddrEntry} (d : State → State) (ha : s.adr = some e)
    (hv : addrValid e.addr = false) : cycle d s = faultEntry (loadAddrRange e) s := by
  have : stageLoad (stageWriteback s) = .error (loadAddrRange e) := by
    rw [stageWriteback_shape]; simp [stageLoad, ha, hv]
  simp [cycle, stagesBeforeDecode, this]

/-- A cycle with an LD in `AB` and no fault of the load stage. -/
theorem cycle_of_aluFault {s : State} {e : Entry} (d : State → State)
    (hadr : ∀ l, s.adr = some l → addrValid l.addr = true) (ha : s.ab = some e)
    (ho : e.instr.op.isLoad = true) : cycle d s = faultEntry (aluBadOpcode e) s := by
  have hop : e.instr.op = .ld := by cases h : e.instr.op <;> simp [h, Opcode.isLoad] at ho ⊢
  have hl : ∃ u, stageLoad (stageWriteback s) = .ok u ∧ u.ab = s.ab := by
    rw [stageWriteback_shape]
    unfold stageLoad
    cases hs : s.adr with
    | none => exact ⟨_, rfl, rfl⟩
    | some l => simp [hadr l hs]
  obtain ⟨u, hu, hua⟩ := hl
  have : stageAlu u = .error (aluBadOpcode e) := by simp [stageAlu, hua, ha, hop, alu]
  simp [cycle, stagesBeforeDecode, hu, this]

/-- The three ways a cycle can go. -/
theorem cycle_cases (d : State → State) (s : State) :
    (noFaultNow s ∧ cycle d s = finishCycle (d (moved s))) ∨
    (∃ e, s.adr = some e ∧ addrValid e.addr = false ∧
      cycle d s = faultEntry (loadAddrRange e) s) ∨
    (∃ e, s.ab = some e ∧ e.instr.op.isLoad = true ∧
      (∀ l, s.adr = some l → addrValid l.addr = true) ∧
      cycle d s = faultEntry (aluBadOpcode e) s) := by
  by_cases hadr : ∀ l, s.adr = some l → addrValid l.addr = true
  · by_cases hab : ∀ e, s.ab = some e → e.instr.op.isLoad = false
    · exact .inl ⟨⟨hadr, hab⟩, cycle_of_noFault d ⟨hadr, hab⟩⟩
    · push Not at hab
      obtain ⟨e, he, ho⟩ := hab
      have ho : e.instr.op.isLoad = true := by simpa using ho
      exact .inr (.inr ⟨e, he, ho, hadr, cycle_of_aluFault d hadr he ho⟩)
  · push Not at hadr
    obtain ⟨e, he, hv⟩ := hadr
    have hv : addrValid e.addr = false := by simpa using hv
    exact .inr (.inl ⟨e, he, hv, cycle_of_loadFault d he hv⟩)

/-- Decode at the start of `moved` sees the registers as writeback left them. -/
@[simp] theorem readReg_moved (s : State) (r : RegIdx) :
    readReg (moved s) r = regAfterWriteback s r :=
  (readReg_congr rfl r).trans (readReg_stageWriteback s r)

@[simp] theorem isBusy_moved (s : State) (r : RegIdx) :
    isBusy (moved s) r = busyAfterWriteback s r :=
  (isBusy_congr rfl r).trans (isBusy_stageWriteback s r)

/-- The hazard check of the decode stage is `sourcesFree`. -/
theorem sourceBusy_moved (i : Instr) (s : State) : sourceBusy i (moved s) = !sourcesFree i s := by
  simp [sourceBusy, sourcesFree]

/-- Decode stalls. -/
theorem decodeHead_stall {i : Instr} {s : State} (h : sourceBusy i s = true) :
    decodeHead i s = s := by simp [decodeHead, h]

/-- Decode accepts. -/
theorem decodeHead_accept {i : Instr} {s : State} (h : sourceBusy i s = false) :
    decodeHead i s =
      { putBusy (popQueue s) i.rd true with
        db := some { instr := i, op1 := readReg s i.rs, op2 := readReg s i.rt } } := by
  simp [decodeHead, h, resolve]

/-- The end of a cycle changes `cycle_count` and `status` only. -/
theorem finishCycle_eq (s : State) :
    finishCycle s = { s with cycleCount := satSucc s.cycleCount,
                             status := if terminal s then .done else s.status } := by
  unfold finishCycle; split <;> rfl

/-- Each instruction's meaning is the cycle that decodes it. -/
@[simp] theorem exec_eq (i : Instr) (s : State) : exec i s = .next (cycle (decodeHead i) s) := by
  cases i <;> rfl

/-- One step, in its five cases. -/
theorem step_eq (s : State) :
    step s = .next (
      if (nextInput s).rst then resetAll (dropInput s)
      else match s.status with
        | .load => loadEdge (nextInput s) (dropInput s)
        | .run => match s.q.head? with
          | some i => cycle (decodeHead i) (dropInput s)
          | none => drainCycle (dropInput s)
        | .done => dropInput s
        | .fault => dropInput s) := by
  unfold step fetchHead
  split
  · rfl
  · cases s.status <;> simp only [exec_eq]
    cases s.q.head? <;> rfl

end Sys2Proof.Laws
end

