-- ==== Sys2Proof/Tests/Slice0.lean ====
section
/-! SUPPORT. Tests with values from spec/95_test_vectors.md and hand calculation from the rules, and a
witness for the hypotheses of every statement. -/

namespace Sys2Proof.Tests

open Sys2Proof Sys2Proof.Machine

/-! ### Text lines: each check of WellFormed refuses an ill-formed line (L1-E) -/

theorem test_line_well_formed : ProgLine.wellFormed ⟨some .add, [1, 2, 3]⟩ = true := by decide
theorem test_line_unknown_opcode : ProgLine.wellFormed ⟨none, [1, 2, 3]⟩ = false := by decide
theorem test_line_token_count : ProgLine.wellFormed ⟨some .add, [1, 2]⟩ = false := by decide
theorem test_line_register_range : ProgLine.wellFormed ⟨some .sub, [9, 1, 1]⟩ = false := by decide
theorem test_reg_line_range : RegLine.wellFormed ⟨8, [1]⟩ = false := by decide
theorem test_reg_line_token_count : RegLine.wellFormed ⟨7, []⟩ = false := by decide
theorem test_mem_line_range : MemLine.wellFormed ⟨8, [1]⟩ = false := by decide
theorem test_mem_line_token_count : MemLine.wellFormed ⟨7, [1, 2]⟩ = false := by decide
theorem test_line_instr : ProgLine.instr? ⟨some .add, [1, 2, 3]⟩ = some (.add 1 2 3) := by decide
theorem test_line_skipped : ProgLine.instr? ⟨some .sub, [9, 1, 1]⟩ = none := by decide
theorem test_reg_line_value : RegLine.init? ⟨2, [-6]⟩ = some (2, 0xFFFFFFFA) := by decide
theorem test_mem_line_value : MemLine.init? ⟨3, [99]⟩ = some (3, 99) := by decide

/-! ### Decoding: words written out bit by bit from R72 and R73 (V-ENC) -/

theorem test_decode_add : decode 0b000_001_010_011 = .ok (.add 1 2 3) := by decide
theorem test_decode_sub : decode 0b001_100_101_110 = .ok (.sub 4 5 6) := by decide
theorem test_decode_and : decode 0b010_110_100_010 = .ok (.and 6 4 2) := by decide
theorem test_decode_or : decode 0b011_111_110_011 = .ok (.or 7 6 3) := by decide
theorem test_decode_ld : decode 0b100_111_111_111 = .ok (.ld 7 7 7) := by decide
theorem test_decode_reserved : decode 0b101_001_010_011 = .error (.reservedOpcode 0b101) := by decide
theorem test_decode_all_ones : decode 0xFFF = .error (.reservedOpcode 0b111) := by decide
theorem test_encode_sub : encode (.sub 4 5 6) = 0x32E := by decide
theorem test_encode_ld : encode (.ld 1 2 3) = 0x853 := by decide
theorem test_table_word : decodeTableWord 16 0x7F3 = some (.or 7 6 3) := by decide
theorem test_table_word_wide : decodeTableWord 16 0x1053 = none := by decide

/-! ### Small states -/

/-- Running, with the given queue, everything else as after reset. -/
def running (q : List Instr) : State := { State.reset with status := .run, q := q }

/-- `s` with `x[r] = v`. -/
def withReg (s : State) (r : RegIdx) (v : Word) : State := writeReg s r v

/-- `s` with `busy[r] = 1`. -/
def withBusy (s : State) (r : RegIdx) : State := putBusy s r true

/-- What one step gives, read through `f`. -/
def after {α : Type} (s : State) (f : State → α) : Option α :=
  match step s with
  | .next t => some (f t)
  | .refused _ => none

/-! ### One step per instruction (Part 1, V-ALU, V-LD, V-DEC, V-ISSUE, V-WB, V-DRV) -/

/-- P1 c1: the operands are captured at decode. -/
theorem test_add_accepted :
    after (withReg (withReg (running [.add 1 2 3]) 2 3) 3 4) (fun t => (t.q, t.db, isBusy t 1)) =
      some ([], some ⟨.add 1 2 3, 3, 4⟩, true) := by decide

theorem test_add_wraps :
    after { running [] with ab := some ⟨.add 1 2 3, 0x7FFFFFFF, 1⟩ } (fun t => (t.rsAlu, t.ab)) =
      some (some ⟨1, 0x80000000⟩, none) := by decide

theorem test_sub_order :
    after { running [] with ab := some ⟨.sub 4 6 5, 4, 10⟩ } State.rsAlu =
      some (some ⟨4, 0xFFFFFFFA⟩) := by decide

/-- V-DEC, last row: the result in `RS_ALU` is read by the head in the same cycle. -/
theorem test_sub_reads_retiring_result :
    after { withBusy (running [.sub 4 1 5]) 1 with rsAlu := some ⟨1, 7⟩ }
      (fun t => (t.db, isBusy t 1, isBusy t 4, readReg t 1)) =
      some (some ⟨.sub 4 1 5, 7, 0⟩, false, true, 7) := by decide

theorem test_and_bits :
    after { running [] with ab := some ⟨.and 1 2 3, 0xFFFFFFFA, 0x0000000F⟩ } State.rsAlu =
      some (some ⟨1, 0x0000000A⟩) := by decide

/-- V-DEC: the head stalls on its busy second source. -/
theorem test_and_stalls :
    after (withBusy (running [.and 1 2 3]) 3) (fun t => (t.q, t.db)) =
      some ([.and 1 2 3], none) := by decide

theorem test_or_bits :
    after { running [] with ab := some ⟨.or 1 2 3, 0x80000000, 1⟩ } State.rsAlu =
      some (some ⟨1, 0x80000001⟩) := by decide

/-- V-ISSUE: an OR goes to `AB`. -/
theorem test_or_issued :
    after { running [] with db := some ⟨.or 1 2 3, 5, 5⟩ } (fun t => (t.db, t.ab, t.lb)) =
      some (none, some ⟨.or 1 2 3, 5, 5⟩, none) := by decide

/-- V-LD: `MEM[3] = 42`. -/
theorem test_ld_reads_memory :
    after { running [] with adr := some ⟨1, 3⟩, mem := [(3, 42)] } (fun t => (t.adr, t.rsLd)) =
      some (none, some ⟨1, 42⟩) := by decide

/-- V-LD: address 8 faults, and nothing but the fault registers is committed. -/
theorem test_ld_out_of_range :
    after { running [] with adr := some ⟨1, 8⟩, rsAlu := some ⟨2, 5⟩ }
      (fun t => (t.status, t.faultInfo, t.adr, readReg t 2)) =
      some (.fault, ⟨.load, 1, 8⟩, some ⟨1, 8⟩, 0) := by decide

/-- V-WB: both slots name R1, the ALU slot is written last (P5 c5). -/
theorem test_writeback_alu_last :
    after { withBusy (running []) 1 with rsLd := some ⟨1, 99⟩, rsAlu := some ⟨1, 14⟩ }
      (fun t => (readReg t 1, isBusy t 1, t.status, t.cycleCount)) =
      some (14, false, .done, 1) := by decide

/-- V-DRV: `start` with an empty queue is DONE after zero cycles (P6). -/
theorem test_start_empty :
    after { State.reset with inputs := [{ start := true }] } (fun t => (t.status, t.cycleCount)) =
      some (.done, 0) := by decide

/-- V-DRV: the 17th push is dropped and counted. -/
theorem test_push_full :
    after { State.reset with q := List.replicate 16 (.or 0 0 0)
                             inputs := [{ progValid := true, progWord := 0x600 }] }
      (fun t => (t.q.length, t.droppedCount)) = some (16, 1) := by decide

/-- V-DRV: `set_mem` while RUN is ignored. -/
theorem test_set_mem_in_run :
    after { running [.or 0 0 0] with inputs := [{ memValid := true, memAddr := 3, memVal := 1 }] }
      (fun t => t.mem.read 3) = some 0 := by decide

/-- The host's first word after reset is run by the very next step. -/
theorem test_with_fetch_word :
    after (State.reset.withFetchWord 16 0x853) (fun t => (t.db, isBusy t 1)) =
      some (some ⟨.ld 1 2 3, 0, 0⟩, true) := by decide

/-! ### Witnesses: states and operands that meet the hypotheses of the statements -/

/-- A running state with every slot occupied, addresses at both ends of the range, and the head
reading the two registers whose results retire. -/
def fullPipe : State :=
  { withBusy (withBusy (withBusy (withBusy (withBusy (withBusy (running [.add 1 2 3]) 2) 3) 4) 5) 6) 7
    with db := some ⟨.ld 4 0 0, 7, 0⟩, ab := some ⟨.add 5 0 0, 1, 2⟩, lb := some ⟨.ld 6 0 0, 0, 0⟩,
         adr := some ⟨7, 7⟩, rsLd := some ⟨2, 9⟩, rsAlu := some ⟨3, 8⟩, mem := [(7, 70)] }

theorem fullPipe_quiet : quietAhead fullPipe :=
  ⟨⟨fun e h => by cases h; decide, fun e h => by cases h; decide⟩,
    fun e h => by cases h; decide, fun e h _ => by cases h; decide⟩

/-- ReservedPushHasNoEffect. -/
theorem witness_reserved_push :
    ∃ (w : InstrWord) (s : State) (rest : List PortsIn), opField w ∈ [0b101, 0b110, 0b111] ∧
      s.status = .load ∧ s.inputs = { progValid := true, progWord := w } :: rest :=
  ⟨0xA53, { State.reset with inputs := [{ progValid := true, progWord := 0xA53 }] }, [],
    by decide, rfl, rfl⟩

/-- ResetOverridesEverything, in FAULT with other inputs presented. -/
theorem witness_reset_edge :
    ∃ (s : State) (p : PortsIn) (rest : List PortsIn), s.inputs = p :: rest ∧ p.rst = true ∧
      s.status = .fault :=
  ⟨{ fullPipe with status := .fault, inputs := [{ rst := true, start := true }] }, _, _, rfl, rfl, rfl⟩

/-- LoadOperationsTakeEffect, all three ports at the top of their ranges, also with a full queue. -/
theorem witness_load_operations :
    ∀ q ∈ [[], List.replicate 16 (Instr.or 0 0 0)],
      ∃ (s : State) (p : PortsIn) (rest : List PortsIn), s.q = q ∧ s.status = .load ∧ s.mem.wf ∧
        s.inputs = p :: rest ∧ p.rst = false ∧ p.start = false ∧
        p.progValid = true ∧ p.regValid = true ∧ p.memValid = true :=
  fun q _ => ⟨{ State.reset with
      q := q, mem := [(7, 5)]
      inputs := [{ progValid := true, progWord := 0x053, regValid := true, regIdx := 7, regVal := 1,
                   memValid := true, memAddr := 7, memVal := 0 }] },
    _, _, rfl, rfl, by show Memory.wf [(7, 5)]; decide, rfl, rfl, rfl, rfl, rfl, rfl⟩

/-- FullQueueDropsAndCounts, with the counter full too. -/
theorem witness_full_queue :
    ∃ (s : State) (w : InstrWord) (i : Instr) (rest : List PortsIn), s.status = .load ∧
      s.inputs = { progValid := true, progWord := w } :: rest ∧ decode w = .ok i ∧
      s.q.length = config.QCAP ∧ s.droppedCount = 0xFFFFFFFF :=
  ⟨{ State.reset with q := List.replicate 16 (.or 0 0 0), droppedCount := 0xFFFFFFFF
                      inputs := [{ progValid := true, progWord := 0x600 }] },
    0x600, .or 0 0 0, [], rfl, rfl, by decide, by decide, rfl⟩

/-- InputsIgnoredOutsideLoad, DoneAndFaultAreIdle: the states outside LOAD. -/
theorem witness_outside_load :
    ∀ st ∈ [Status.run, Status.done, Status.fault], ∃ (s : State) (p : PortsIn), s.status = st ∧
      s.status ≠ .load ∧ p.rst = false ∧ (nextInput s).rst = false ∧ p.start = true :=
  fun st h => ⟨{ fullPipe with status := st }, { start := true }, rfl,
    by revert st; decide, rfl, rfl, rfl⟩

/-- StartLeavesLoad. -/
theorem witness_start : ∃ (s : State) (p : PortsIn), s.status = .load ∧ p.rst = false :=
  ⟨State.reset, { progValid := true, progWord := 0x053 }, rfl, rfl⟩

/-- StepRunsHeadInstruction, with an instruction at the head and with the queue empty;
SequentialEqualsSimultaneous. -/
theorem witness_step_runs :
    (∃ s i rest, s.status = Status.run ∧ (nextInput s).rst = false ∧ s.q = i :: rest) ∧
    (∃ s : State, s.status = .run ∧ (nextInput s).rst = false ∧ s.q = []) :=
  ⟨⟨fullPipe, _, _, rfl, rfl, rfl⟩, ⟨running [], rfl, rfl, rfl⟩⟩

/-- EachSlotAdvancesOneStage, WritebackRetiresBothSlots, BusyFlagsFollowDecodeAndWriteback,
DecodeIsInOrder, HaltExactlyAtTerminal: a committed cycle that goes on in RUN, and one that ends in
DONE. -/
theorem witness_committed_cycle :
    (∃ s t, s.status = Status.run ∧ (nextInput s).rst = false ∧ step s = .next t ∧
      t.status = .run) ∧
    (∃ s t, s.status = Status.run ∧ (nextInput s).rst = false ∧ step s = .next t ∧
      t.status = .done) :=
  ⟨⟨fullPipe, _, rfl, rfl, rfl, by decide⟩,
    ⟨{ running [] with rsLd := some ⟨1, 99⟩ }, _, rfl, rfl, rfl, by decide⟩⟩

/-- WritebackRetiresBothSlots: each clause, with one register in both slots for the last. -/
theorem witness_writeback :
    (∃ (s : State) (l a : ResultEntry), s.rsLd = some l ∧ s.rsAlu = some a ∧ a.rd ≠ l.rd ∧ retiring s 0 = false) ∧
    (∃ (s : State) (l a : ResultEntry), s.rsLd = some l ∧ s.rsAlu = some a ∧ a.rd = l.rd) :=
  ⟨⟨fullPipe, _, _, rfl, rfl, by decide, by decide⟩,
    ⟨{ fullPipe with rsLd := some ⟨3, 9⟩ }, _, _, rfl, rfl, by decide⟩⟩

/-- IssueRoutesByClass: both classes. -/
theorem witness_issue :
    ∀ i ∈ [Instr.ld 7 0 7, Instr.or 7 0 7], ∃ (s : State) (e : Entry), s.ab = none ∧
      s.lb = none ∧ s.db = some e ∧ e.instr = i :=
  fun i _ => ⟨{ running [] with db := some ⟨i, 1, 2⟩ }, _, rfl, rfl, rfl, rfl⟩

/-- DecodeAcceptsFreeHead: a free head, a stalled head and the empty queue. -/
theorem witness_decode :
    (noFaultNow fullPipe ∧ sourcesFree (.add 1 2 3) fullPipe = true) ∧
    (noFaultNow fullPipe ∧ sourcesFree (.ld 1 2 4) fullPipe = false) ∧
    (∃ s, noFaultNow s ∧ s.q = []) :=
  ⟨⟨fullPipe_quiet.1, by decide⟩, ⟨fullPipe_quiet.1, by decide⟩,
    ⟨{ fullPipe with q := [] }, fullPipe_quiet.1, rfl⟩⟩

/-- DecodeStallsOnBusySource: a stalled head and the empty queue. -/
theorem witness_stall :
    (∃ s i, s.status = Status.run ∧ (nextInput s).rst = false ∧ noFaultNow s ∧ s.q.head? = some i ∧
      ∀ j, s.q.head? = some j → sourcesFree j s = false) ∧
    (∃ s, s.status = Status.run ∧ (nextInput s).rst = false ∧ noFaultNow s ∧ s.q = [] ∧
      ∀ j, s.q.head? = some j → sourcesFree j s = false) :=
  ⟨⟨{ fullPipe with q := [.sub 0 7 2] }, _, rfl, rfl, fullPipe_quiet.1, rfl,
      fun j h => by cases h; decide⟩,
    ⟨{ fullPipe with q := [] }, rfl, rfl, fullPipe_quiet.1, rfl, fun j h => by cases h⟩⟩

/-- DestinationIsNotChecked. -/
theorem witness_destination_busy :
    ∃ (i : Instr) (s : State), noFaultNow s ∧ isBusy s i.rd = true ∧ retiring s i.rd = false ∧
      sourcesFree i s = true :=
  ⟨.add 7 2 3, fullPipe, fullPipe_quiet.1, by decide, by decide, by decide⟩

/-- RetiringResultIsReadAtOnce: each clause, with a younger writer of the register in `DB`. -/
theorem witness_retiring_source :
    ∃ (s : State) (a l : ResultEntry), noFaultNow s ∧ s.rsAlu = some a ∧ s.rsLd = some l ∧
      ResultEntry.names s.rsAlu l.rd = false ∧ inFlightPastDecode s a.rd = true ∧
      busyAfterWriteback s a.rd = false ∧ busyAfterWriteback s l.rd = false ∧
      (Instr.or 0 a.rd l.rd).rs = a.rd ∧ (Instr.or 0 l.rd a.rd).rt = a.rd :=
  ⟨{ fullPipe with db := some ⟨.add 3 0 0, 0, 0⟩ }, ⟨3, 8⟩, ⟨2, 9⟩,
    fullPipe_quiet.1, rfl, rfl, by decide, by decide, by decide, by decide, rfl, rfl⟩

/-- CycleCountCountsCommittedCycles: a committed cycle with a full counter, a faulting cycle and an
idle edge. -/
theorem witness_cycle_count :
    (∃ s t, (nextInput s).rst = false ∧ step s = .next t ∧ s.status = .run ∧ t.status ≠ .fault ∧
      s.cycleCount = 0xFFFFFFFF) ∧
    (∃ s t, (nextInput s).rst = false ∧ step s = .next t ∧ s.status = .run ∧ t.status = .fault) ∧
    (∃ s t, (nextInput s).rst = false ∧ step s = .next t ∧ s.status ≠ .run) :=
  ⟨⟨{ fullPipe with cycleCount := 0xFFFFFFFF }, _, rfl, rfl, rfl, by decide, rfl⟩,
    ⟨{ fullPipe with adr := some ⟨7, 8⟩ }, _, rfl, rfl, rfl, by decide⟩,
    ⟨State.reset, _, rfl, rfl, by decide⟩⟩

/-- AddWritesSum, SubWritesDifference, AndWritesBitwiseAnd, OrWritesBitwiseOr: with the destination
equal to a source, and with every slot occupied. -/
theorem witness_alu_lifetime :
    ∀ mk ∈ [Instr.add, Instr.sub, Instr.and, Instr.or], fullPipe.status = .run ∧
      noReset fullPipe ∧ quietAhead fullPipe ∧ sourcesFree (mk 2 2 3) fullPipe = true :=
  fun mk h => ⟨rfl, by decide, fullPipe_quiet, by
    simp only [List.mem_cons, List.not_mem_nil, or_false] at h
    rcases h with rfl | rfl | rfl | rfl <;> decide⟩

/-- `fullPipe` with `x[2] + x[3] = a` as decode sees them, the summands 9 and `a - 9`. -/
def sumPipe (a : Word) : State := { fullPipe with rsAlu := some ⟨3, a - 9⟩ }

/-- LdWritesMemoryWord: addresses 0 and 7, each with a negative summand. -/
theorem witness_ld :
    ∀ a ∈ [(0 : Word), 7], ∃ s, s.status = Status.run ∧ noReset s ∧ quietAhead s ∧
      sourcesFree (.ld 1 2 3) s = true ∧
      regAfterWriteback s 2 + regAfterWriteback s 3 = a ∧ addrValid a = true := by
  intro a h
  simp only [List.mem_cons, List.not_mem_nil, or_false] at h
  rcases h with rfl | rfl
  · exact ⟨sumPipe 0, rfl, by decide, fullPipe_quiet, by decide, by decide, by decide⟩
  · exact ⟨sumPipe 7, rfl, by decide, fullPipe_quiet, by decide, by decide, by decide⟩

/-- LdWritesMemoryWord, its last part: the load has reached `RS_LD` and no younger load is in `ADR`. -/
theorem witness_ld_retires :
    ∃ t1 t4, exec (.ld 1 2 3) (sumPipe 7) = .next t1 ∧ steps 3 t1 = .next t4 ∧
      t4.rsLd = some ⟨1, 70⟩ ∧ ∀ e : AddrEntry, t4.adr = some e → addrValid e.addr = true :=
  ⟨_, _, rfl, rfl, by decide, fun e h => by cases h⟩

/-- LdOutOfRangeFaults: the addresses next to the range. -/
theorem witness_ld_fault :
    ∀ a ∈ [(8 : Word), 0xFFFFFFFF], ∃ s, s.status = Status.run ∧ noReset s ∧ quietAhead s ∧
      sourcesFree (.ld 1 2 3) s = true ∧ regAfterWriteback s 2 + regAfterWriteback s 3 = a ∧
      ¬ (0 ≤ a.toInt ∧ a.toInt ≤ 7) := by
  intro a h
  simp only [List.mem_cons, List.not_mem_nil, or_false] at h
  rcases h with rfl | rfl
  · exact ⟨sumPipe 8, rfl, by decide, fullPipe_quiet, by decide, by decide, by decide⟩
  · exact ⟨sumPipe 0xFFFFFFFF, rfl, by decide, fullPipe_quiet, by decide, by decide, by decide⟩

/-- MemoryUnchangedDuringRun: both disjuncts. -/
theorem witness_memory_unchanged :
    (∃ s t, (nextInput s).rst = false ∧ step s = .next t ∧ s.status ≠ .load) ∧
    (∃ s t, (nextInput s).rst = false ∧ step s = .next t ∧ s.status = .load ∧
      (nextInput s).memValid = false) :=
  ⟨⟨fullPipe, _, rfl, rfl, by decide⟩, ⟨State.reset, _, rfl, rfl, rfl, rfl⟩⟩

/-- InstructionFrame: a cycle that commits and one that faults. -/
theorem witness_frame :
    fullPipe.status = .run ∧ retiring fullPipe 0 = false ∧
    ∃ s t, s.status = Status.run ∧ exec (.add 1 2 3) s = .next t ∧ t.status = .fault :=
  ⟨rfl, by decide, ⟨{ fullPipe with adr := some ⟨7, 8⟩ }, _, rfl, rfl, by decide⟩⟩

/-- FaultCommitsOnlyFaultRegisters: both clauses, the addresses next to the range for the first and
the ends of the range for the second; AluBadOpcodeIsUnreachable. -/
theorem witness_faults :
    (∀ a ∈ [(8 : Word), 0xFFFFFFFF], ∃ s e, s.status = Status.run ∧ (nextInput s).rst = false ∧
      s.adr = some e ∧ e.addr = a ∧ ¬ (0 ≤ e.addr.toInt ∧ e.addr.toInt ≤ 7)) ∧
    (∀ a ∈ [(0 : Word), 7], ∃ s e, s.status = Status.run ∧ (nextInput s).rst = false ∧
      (∀ l : AddrEntry, s.adr = some l → 0 ≤ l.addr.toInt ∧ l.addr.toInt ≤ 7) ∧
      s.adr.isSome ∧ s.ab = some e ∧ e.instr.op = .ld) := by
  constructor <;> intro a h <;> simp only [List.mem_cons, List.not_mem_nil, or_false] at h
  · rcases h with rfl | rfl
    · exact ⟨{ fullPipe with adr := some ⟨7, 8⟩ }, _, rfl, rfl, rfl, rfl, by decide⟩
    · exact ⟨{ fullPipe with adr := some ⟨7, 0xFFFFFFFF⟩ }, _, rfl, rfl, rfl, rfl, by decide⟩
  · rcases h with rfl | rfl
    · exact ⟨{ fullPipe with adr := some ⟨7, 0⟩, ab := some ⟨.ld 1 2 3, 0, 0⟩ }, _, rfl, rfl,
        fun l hl => by cases hl; decide, rfl, rfl, rfl⟩
    · exact ⟨{ fullPipe with adr := some ⟨7, 7⟩, ab := some ⟨.ld 1 2 3, 0, 0⟩ }, _, rfl, rfl,
        fun l hl => by cases hl; decide, rfl, rfl, rfl⟩

/-! #### Reachable states -/

/-- The state after `n` edges. -/
def runState : Nat → State → State
  | 0, s => s
  | n + 1, s =>
    match step s with
    | .next t => runState n t
    | .refused _ => s

theorem runState_reachable : ∀ (n : Nat) (s : State), Reachable s → Reachable (runState n s)
  | 0, _, h => h
  | n + 1, s, h => by
    unfold runState
    split
    · next t ht => exact runState_reachable n t (.edge h ht)
    · exact h

/-- Reset, then one edge that sets `x[2]`, pushes a word and starts. -/
def started (w : InstrWord) (v : Word) : State :=
  { State.reset with inputs := [{ progValid := true, progWord := w, regValid := true, regIdx := 2,
                                  regVal := v, start := true }] }

theorem started_reachable (n : Nat) (w : InstrWord) (v : Word) :
    Reachable (runState n (started w v)) := runState_reachable n _ (.reset _)

/-- Reachable states in every status (SnapshotsOfARun, FaultRegistersOfReachableStates,
SlotClassInvariant, BusyTracksWritersInFlight, DoneStateIsDrained, AluBadOpcodeIsUnreachable): LOAD
with `start` presented and without, RUN with an LD in `LB` and a busy register, DONE, and FAULT after
a load from address 8. -/
theorem witness_reachable :
    (∃ s, Reachable s ∧ s.status = .load ∧ (nextInput s).start = true ∧
      (nextInput s).rst = false) ∧
    (∃ s, Reachable s ∧ s.status = .load ∧ (nextInput s).start = false ∧
      (nextInput s).rst = false) ∧
    (∃ s, Reachable s ∧ s.status = .run ∧ s.lb.isSome ∧ isBusy s 1 = true) ∧
    (∃ s, Reachable s ∧ s.status = .run ∧ s.ab.isSome) ∧
    (∃ s, Reachable s ∧ s.status = .done) ∧
    (∃ s, Reachable s ∧ s.status = .fault) ∧
    (∃ s t, Reachable s ∧ s.status = .run ∧ step s = .next t ∧ t.status ≠ .fault) ∧
    (∃ s t, Reachable s ∧ s.status = .run ∧ step s = .next t ∧ t.status = .fault) :=
  ⟨⟨_, started_reachable 0 0x853 8, by decide, by decide, by decide⟩,
    ⟨_, .reset [], by decide, by decide, by decide⟩,
    ⟨_, started_reachable 3 0x853 8, by decide, by decide, by decide⟩,
    ⟨_, started_reachable 3 0x053 8, by decide, by decide⟩,
    ⟨_, started_reachable 1 0xA00 8, by decide⟩,
    ⟨_, started_reachable 5 0x853 8, by decide⟩,
    ⟨_, _, started_reachable 1 0x853 8, by decide, rfl, by decide⟩,
    ⟨_, _, started_reachable 4 0x853 8, by decide, rfl, by decide⟩⟩

/-- StepKeepsTheInvariant: a running state with four instructions in flight meets the invariant, and
a step leads on from it. -/
theorem witness_invariant : ∃ s t, Inv s ∧ s.status = .run ∧ step s = .next t :=
  ⟨{ withBusy (withBusy (withBusy (withBusy (running [.add 1 2 3]) 4) 5) 6) 7 with
      db := some ⟨.ld 4 0 0, 7, 0⟩, ab := some ⟨.add 5 0 0, 1, 2⟩, lb := some ⟨.ld 6 0 0, 0, 0⟩,
      adr := some ⟨7, 7⟩, mem := [(7, 70)] }, _,
    { capacity := by decide
      memForm := by show Memory.wf [(7, 70)]; decide
      aluClass := fun e h => by cases h; decide
      loadClass := fun e h => by cases h; decide
      busyInFlight := by decide
      loadQuiet := fun h => by cases h
      runLive := fun _ => by decide
      doneTerminal := fun h => by cases h
      faultRecorded := fun h => by cases h
      faultClear := fun _ => ⟨rfl, rfl⟩ }, rfl, rfl⟩

/-- BusyTracksWritersInFlight, second part: an accepted instruction, and an edge that starts with no
result for its destination. -/
theorem witness_writer_stays_busy :
    ∃ (i : Instr) (s t1 t : State), s.status = .run ∧ noReset s ∧ noFaultNow s ∧
      sourcesFree i s = true ∧ exec i s = .next t1 ∧ steps 1 t1 = .next t ∧
      ∀ m < 1, ∀ u, steps m t1 = .next u → retiring u i.rd = false :=
  ⟨.add 1 2 3, fullPipe, _, _, rfl, by decide, fullPipe_quiet.1, by decide, rfl, rfl,
    fun m hm u hu => by
      obtain rfl : m = 0 := by omega
      cases hu; decide⟩

/-- CountersAffectNothingElse: two running states that differ in both counters. -/
theorem witness_counters :
    ∃ s s' t t' : State, s ≠ s' ∧ eraseCounters s = eraseCounters s' ∧ step s = .next t ∧
      step s' = .next t' :=
  ⟨fullPipe, { fullPipe with cycleCount := 5, droppedCount := 0xFFFFFFFF }, _, _,
    fun h => absurd (congrArg State.cycleCount h) (by decide), rfl, rfl, rfl⟩

/-- StallDistance: an ALU producer, and an LD producer with address 7. -/
theorem witness_stall_distance :
    ∀ i ∈ [Instr.add 1 2 3, Instr.ld 1 2 3], ∃ s t1, s.status = Status.run ∧ noReset s ∧
      quietAhead s ∧ sourcesFree i s = true ∧
      addrValid (regAfterWriteback s i.rs + regAfterWriteback s i.rt) = true ∧
      exec i s = .next t1 ∧ t1.q = [.sub 0 0 1] ∧ inFlightPastDecode t1 i.rd = false ∧
      isBusy t1 0 = false := by
  intro i h
  simp only [List.mem_cons, List.not_mem_nil, or_false] at h
  rcases h with rfl | rfl
  · exact ⟨{ fullPipe with q := [.add 1 2 3, .sub 0 0 1], rsAlu := some ⟨3, 0xFFFFFFFE⟩ }, _, rfl,
      by decide, fullPipe_quiet, by decide, by decide, rfl, by decide, by decide, by decide⟩
  · exact ⟨{ fullPipe with q := [.ld 1 2 3, .sub 0 0 1], rsAlu := some ⟨3, 0xFFFFFFFE⟩ }, _, rfl,
      by decide, fullPipe_quiet, by decide, by decide, rfl, by decide, by decide, by decide⟩

/-- The initial state of a run of one OR. -/
theorem or_initial : InitialState (running [.or 0 0 0]) where
  running := rfl
  queue := by decide
  capacity := by decide
  slots := by decide
  free := by decide
  cycleCount := rfl

/-- RunEndsWithinBound, DoneRunCycleCount, HazardFreeRunIsSequential: an initial state of a hazard-free
program whose run ends in DONE. -/
theorem witness_run :
    ∃ (s : State) (k : Nat) (t : State), InitialState s ∧ noReset s ∧ hazardFree s.q = true ∧
      steps k s = .next t ∧ t.status = .done :=
  ⟨_, 4, _, or_initial, by decide, by decide, rfl, by decide⟩

/-- HazardFreeRunIsSequential: the condition holds of a program that rewrites a register after
reading it, and fails of one that does not (P3). -/
theorem test_hazard_free :
    hazardFree [.ld 1 2 3, .add 7 2 3, .add 1 1 2, .sub 4 1 0] = true ∧
    hazardFree [.ld 1 2 3, .add 7 2 3, .add 1 2 2, .sub 4 1 0] = false := by decide

end Sys2Proof.Tests
end

section
/-! PROOFS. What one clock edge does in each status, the counters, and the statements of
spec/10_state.md. -/

namespace Sys2Proof.Proofs

open Sys2Proof Sys2Proof.Machine Sys2Proof.Laws

/-! ### The reset state -/

@[simp] theorem readReg_reset (r : RegIdx) : readReg State.reset r = 0 := by
  simp [readReg, State.reset]

@[simp] theorem isBusy_reset (r : RegIdx) : isBusy State.reset r = false := by
  simp [isBusy, State.reset]

/-- Settles O5: registers and busy flags by the replicated register file, memory because an unlisted
address reads as 0, every other element as `State.reset` lists it. -/
theorem resetValues : Obligations.ResetValues := by
  exact ⟨rfl, ⟨rfl, rfl, rfl, rfl, rfl, rfl⟩, fun r => ⟨readReg_reset r, isBusy_reset r⟩,
    fun _ => rfl, rfl, rfl, rfl, rfl, rfl⟩

/-! ### One edge without `rst`, by status -/

theorem nextInput_cons {s : State} {p : PortsIn} {rest : List PortsIn} (h : s.inputs = p :: rest) :
    nextInput s = p := by
  simp [nextInput, h]

/-- The decode stage of a cycle that starts with queue `q`: it does nothing on an empty queue. -/
def decodeStage (q : List Instr) : State → State := q.head?.elim id decodeHead

section EdgeWithoutReset

variable {s : State} (hrst : (nextInput s).rst = false)
include hrst

theorem step_load (h : s.status = .load) :
    step s = .next (loadEdge (nextInput s) (dropInput s)) := by
  simp [step_eq, hrst, h]

theorem step_run (h : s.status = .run) :
    step s = .next (cycle (decodeStage s.q) (dropInput s)) := by
  unfold decodeStage
  cases hq : s.q.head? <;> simp [step_eq, hrst, h, hq, drainCycle]

theorem step_done_or_fault (h : s.status = .done ∨ s.status = .fault) :
    step s = .next (dropInput s) := by
  rcases h with h | h <;> simp [step_eq, hrst, h]

end EdgeWithoutReset

/-! ### A push -/

theorem loadEdge_push (w : InstrWord) (s : State) :
    loadEdge { progValid := true, progWord := w } s = pushInstr w s := rfl

theorem pushInstr_of_decode {w : InstrWord} {i : Instr} (h : decode w = .ok i) (s : State) :
    pushInstr w s = pushQueue i s := by
  simp [pushInstr, h]

theorem pushQueue_of_full {s : State} (h : s.q.length = config.QCAP) (i : Instr) :
    pushQueue i s = { s with droppedCount := satSucc s.droppedCount } :=
  if_pos h

/-- Settles O8: the edge is the push alone, and a push into a full queue only counts. -/
theorem fullQueueDropsAndCounts : Obligations.FullQueueDropsAndCounts := by
  intro s w i rest hload hin hdec hfull
  have hnext := nextInput_cons hin
  have hstep : step s =
      .next { s with droppedCount := satSucc s.droppedCount, inputs := rest } := by
    rw [step_load (by rw [hnext]) hload, hnext, loadEdge_push, pushInstr_of_decode hdec,
      pushQueue_of_full (s := dropInput s) hfull]
    simp [dropInput, hin]
  exact ⟨_, hstep, rfl, satSucc_toNat s.droppedCount, rfl⟩

/-! ### What leaves `cycle_count` and `status` alone -/

@[simp] theorem pushInstr_cycleCount (w : InstrWord) (s : State) :
    (pushInstr w s).cycleCount = s.cycleCount := by
  unfold pushInstr pushQueue
  cases decode w with
  | error e => rfl
  | ok i => dsimp only; split <;> rfl

@[simp] theorem applyLoads_cycleCount (p : PortsIn) (s : State) :
    (applyLoads p s).cycleCount = s.cycleCount := by
  simp only [applyLoads, setReg, apply_ite State.cycleCount, setMem_cycleCount,
    writeReg_cycleCount, pushInstr_cycleCount, ite_self]

@[simp] theorem loadEdge_cycleCount (p : PortsIn) (s : State) :
    (loadEdge p s).cycleCount = s.cycleCount := by
  simp only [loadEdge, apply_ite State.cycleCount, startRun_cycleCount, applyLoads_cycleCount,
    ite_self]

@[simp] theorem decodeHead_cycleCount (i : Instr) (s : State) :
    (decodeHead i s).cycleCount = s.cycleCount := by
  unfold decodeHead; split <;> rfl

@[simp] theorem decodeHead_status (i : Instr) (s : State) :
    (decodeHead i s).status = s.status := by
  unfold decodeHead; split <;> rfl

@[simp] theorem decodeStage_cycleCount (q : List Instr) (s : State) :
    (decodeStage q s).cycleCount = s.cycleCount := by
  unfold decodeStage
  cases q.head? <;> simp

@[simp] theorem decodeStage_status (q : List Instr) (s : State) :
    (decodeStage q s).status = s.status := by
  unfold decodeStage
  cases q.head? <;> simp

@[simp] theorem moved_cycleCount (s : State) : (moved s).cycleCount = s.cycleCount := rfl
@[simp] theorem moved_status (s : State) : (moved s).status = s.status := rfl

/-! ### The cycle's outcome -/

/-- A cycle commits the state its decode stage leaves, or only the fault registers. -/
theorem cycle_commits_or_faults (d : State → State) (s : State) :
    cycle d s = finishCycle (d (moved s)) ∨ ∃ f, cycle d s = faultEntry f s := by
  obtain ⟨_, h⟩ | ⟨e, _, _, h⟩ | ⟨e, _, _, _, h⟩ := cycle_cases d s
  · exact .inl h
  · exact .inr ⟨_, h⟩
  · exact .inr ⟨_, h⟩

/-- An edge in RUN counts a cycle exactly when it does not enter FAULT. -/
theorem cycleCount_of_step_run {s t : State} (hrst : (nextInput s).rst = false)
    (hrun : s.status = .run) (ht : step s = .next t) :
    (t.status ≠ .fault ∧ t.cycleCount = satSucc s.cycleCount) ∨
    (t.status = .fault ∧ t.cycleCount = s.cycleCount) := by
  obtain rfl : cycle (decodeStage s.q) (dropInput s) = t := by simpa [step_run hrst hrun] using ht
  obtain h | ⟨f, h⟩ := cycle_commits_or_faults (decodeStage s.q) (dropInput s)
  · refine .inl ⟨?_, by simp [h, finishCycle_eq]⟩
    simp only [h, finishCycle_eq, decodeStage_status, moved_status, dropInput_status, hrun]
    split <;> decide
  · exact .inr ⟨by simp [h], by simp [h]⟩

theorem cycleCount_of_step_outside_run {s t : State} (hrst : (nextInput s).rst = false)
    (hrun : s.status ≠ .run) (ht : step s = .next t) : t.cycleCount = s.cycleCount := by
  cases hs : s.status with
  | load =>
    obtain rfl : loadEdge (nextInput s) (dropInput s) = t := by simpa [step_load hrst hs] using ht
    simp
  | run => exact absurd hs hrun
  | done =>
    obtain rfl : dropInput s = t := by simpa [step_done_or_fault hrst (.inl hs)] using ht
    simp
  | fault =>
    obtain rfl : dropInput s = t := by simpa [step_done_or_fault hrst (.inr hs)] using ht
    simp

/-- Settles O26, by the outcome of an edge in RUN and the frame of every other edge. -/
theorem cycleCountCountsCommittedCycles : Obligations.CycleCountCountsCommittedCycles := by
  refine ⟨rfl, fun s t hrst ht => ⟨fun hrun hok => ?_, fun hrun hfault => ?_,
    fun hrun => cycleCount_of_step_outside_run hrst hrun ht⟩⟩
  · obtain ⟨_, hcount⟩ | ⟨hfault, _⟩ := cycleCount_of_step_run hrst hrun ht
    · rw [hcount, satSucc_toNat]
    · exact absurd hfault hok
  · obtain ⟨hok, _⟩ | ⟨_, hcount⟩ := cycleCount_of_step_run hrst hrun ht
    · exact absurd hfault hok
    · exact hcount

end Sys2Proof.Proofs
end

section
/-! PROOFS. The reserved instruction words of spec/30_encoding.md R77. -/

namespace Sys2Proof.Proofs

open Sys2Proof Sys2Proof.Machine Sys2Proof.Laws

/-! ### A reserved word -/

/-- R77: the numbers that rule R73 gives no opcode. -/
theorem ofBits_of_reserved {b : BitVec 3} (h : b ∈ [0b101, 0b110, 0b111]) :
    Opcode.ofBits b = none := by
  simp only [List.mem_cons, List.not_mem_nil, or_false] at h
  rcases h with rfl | rfl | rfl <;> rfl

theorem decode_of_reserved {w : InstrWord} (h : opField w ∈ [0b101, 0b110, 0b111]) :
    decode w = .error (.reservedOpcode (opField w)) := by
  simp [decode, ofBits_of_reserved h]

theorem pushInstr_of_decode_error {w : InstrWord} {e : DecodeError} (h : decode w = .error e)
    (s : State) : pushInstr w s = s := by
  simp [pushInstr, h]

/-- Settles O4: the edge is the push alone, and pushing a word that does not decode is the
identity. -/
theorem reservedPushHasNoEffect : Obligations.ReservedPushHasNoEffect := by
  intro w s rest hres hload hin
  have hdec := decode_of_reserved hres
  have hnext := nextInput_cons hin
  refine ⟨fun i hi => by simp [hdec] at hi, ?_⟩
  rw [step_load (by rw [hnext]) hload, hnext, loadEdge_push, pushInstr_of_decode_error hdec]
  simp [dropInput, hin]

end Sys2Proof.Proofs
end

section
/-! PROOFS. Writeback, issue, decode and the end of the cycle: the statements of spec/40_pipeline.md
R103, R108 to R114 and R117. -/

namespace Sys2Proof.Proofs

open Sys2Proof Sys2Proof.Machine Sys2Proof.Laws

/-! ### Writeback: what decode sees of a register (R103) -/

theorem retiring_of_rsLd {s : State} {l : ResultEntry} (h : s.rsLd = some l) :
    retiring s l.rd = true := by
  simp [retiring, ResultEntry.names, h]

theorem retiring_of_rsAlu {s : State} {a : ResultEntry} (h : s.rsAlu = some a) :
    retiring s a.rd = true := by
  simp [retiring, ResultEntry.names, h]

theorem busyAfterWriteback_of_retiring {s : State} {r : RegIdx} (h : retiring s r = true) :
    busyAfterWriteback s r = false := by
  simp [busyAfterWriteback, h]

theorem busyAfterWriteback_of_not_retiring {s : State} {r : RegIdx} (h : retiring s r = false) :
    busyAfterWriteback s r = isBusy s r := by
  simp [busyAfterWriteback, h]

theorem regAfterWriteback_of_rsAlu {s : State} {a : ResultEntry} (h : s.rsAlu = some a) :
    regAfterWriteback s a.rd = a.value := by
  cases hl : s.rsLd <;> simp [regAfterWriteback, h, hl]

theorem regAfterWriteback_of_rsLd {s : State} {l : ResultEntry} (h : s.rsLd = some l)
    (hne : ∀ a, s.rsAlu = some a → a.rd ≠ l.rd) : regAfterWriteback s l.rd = l.value := by
  cases ha : s.rsAlu with
  | none => simp [regAfterWriteback, h, ha]
  | some a => simp [regAfterWriteback, h, ha, hne a ha]

theorem regAfterWriteback_of_not_retiring {s : State} {r : RegIdx} (h : retiring s r = false) :
    regAfterWriteback s r = readReg s r := by
  have hld : ∀ l, s.rsLd = some l → l.rd ≠ r := by
    rintro l hl rfl
    simp [retiring_of_rsLd hl] at h
  have halu : ∀ a, s.rsAlu = some a → a.rd ≠ r := by
    rintro a ha rfl
    simp [retiring_of_rsAlu ha] at h
  unfold regAfterWriteback
  split
  · next a l ha hl => rw [if_neg (halu a ha), if_neg (hld l hl)]
  · next a ha _ => rw [if_neg (halu a ha)]
  · next l _ hl => rw [if_neg (hld l hl)]
  · rfl

@[simp] theorem stageWriteback_rsLd (s : State) : (stageWriteback s).rsLd = none := by
  rw [stageWriteback_shape]

@[simp] theorem stageWriteback_rsAlu (s : State) : (stageWriteback s).rsAlu = none := by
  rw [stageWriteback_shape]

/-! Reading off an edge's inputs has no part in what decode sees. -/

@[simp] theorem regAfterWriteback_dropInput (s : State) (r : RegIdx) :
    regAfterWriteback (dropInput s) r = regAfterWriteback s r := rfl

@[simp] theorem busyAfterWriteback_dropInput (s : State) (r : RegIdx) :
    busyAfterWriteback (dropInput s) r = busyAfterWriteback s r := rfl

/-! ### Issue (R108, R109) -/

theorem isLoad_eq_beq_ld (op : Opcode) : op.isLoad = (op == .ld) := by
  cases op <;> rfl

theorem issue_of_load {s : State} {e : Entry} (hdb : s.db = some e)
    (hop : e.instr.op.isLoad = true) :
    stageIssueAlu (stageIssueLoad s) = { s with lb := some e, db := none } := by
  simp [stageIssueLoad, stageIssueAlu, hdb, hop]

theorem issue_of_alu {s : State} {e : Entry} (hdb : s.db = some e)
    (hop : e.instr.op.isLoad = false) :
    stageIssueAlu (stageIssueLoad s) = { s with ab := some e, db := none } := by
  simp [stageIssueLoad, stageIssueAlu, hdb, hop]

theorem issue_of_empty {s : State} (hdb : s.db = none) :
    stageIssueAlu (stageIssueLoad s) = s := by
  simp [stageIssueLoad, stageIssueAlu, hdb]

theorem issue_db (s : State) : (stageIssueAlu (stageIssueLoad s)).db = none := by
  cases hdb : s.db with
  | none => rw [issue_of_empty hdb, hdb]
  | some e =>
    cases hop : e.instr.op.isLoad with
    | true => rw [issue_of_load hdb hop]
    | false => rw [issue_of_alu hdb hop]

/-- Settles O19, by the class of the entry in `DB`. -/
theorem issueRoutesByClass : Obligations.IssueRoutesByClass := by
  intro s _ _
  refine ⟨issue_db s, fun e hdb => ⟨fun hld => issue_of_load hdb ?_, fun hld => issue_of_alu hdb ?_⟩⟩
  · simpa [isLoad_eq_beq_ld] using hld
  · simpa [isLoad_eq_beq_ld] using hld

/-! ### The state decode starts from -/

@[simp] theorem moved_q (s : State) : (moved s).q = s.q := rfl
@[simp] theorem moved_db (s : State) : (moved s).db = none := rfl

theorem moved_lb (s : State) : (moved s).lb = s.db.filter (fun e => e.instr.op == .ld) := by
  simp [moved, isLoad_eq_beq_ld]

theorem moved_ab (s : State) : (moved s).ab = s.db.filter (fun e => e.instr.op != .ld) := by
  simp [moved, isLoad_eq_beq_ld, bne]

theorem moved_adr_rd (s : State) :
    (moved s).adr.map AddrEntry.rd = s.lb.map (fun e => e.instr.rd) := by
  simp [moved, Function.comp_def]

theorem moved_rsLd_rd (s : State) :
    (moved s).rsLd.map ResultEntry.rd = s.adr.map AddrEntry.rd := by
  simp [moved, Function.comp_def]

/-- The ALU stage has a value for every occupant of `AB`, so the occupant moves on. -/
theorem moved_rsAlu_rd {s : State} (hok : noFaultNow s) :
    (moved s).rsAlu.map ResultEntry.rd = s.ab.map (fun e => e.instr.rd) := by
  obtain ⟨_, hclass⟩ := hok
  cases hab : s.ab with
  | none => simp [moved, hab]
  | some e =>
    obtain ⟨v, hv⟩ := alu_isSome (hclass e hab) e.op1 e.op2
    simp [moved, hab, hv]

/-! ### Decode (R110-R113) -/

@[simp] theorem readReg_decodeHead (i : Instr) (s : State) (r : RegIdx) :
    readReg (decodeHead i s) r = readReg s r := by
  cases h : sourceBusy i s with
  | true => rw [decodeHead_stall h]
  | false =>
    rw [decodeHead_accept h]
    exact readReg_putBusy (popQueue s) i.rd r true

@[simp] theorem readReg_decodeStage (q : List Instr) (s : State) (r : RegIdx) :
    readReg (decodeStage q s) r = readReg s r := by
  unfold decodeStage
  cases q.head? <;> simp

theorem isBusy_decodeHead_accept {i : Instr} {s : State} (h : sourceBusy i s = false) (r : RegIdx) :
    isBusy (decodeHead i s) r = if r = i.rd then true else isBusy s r := by
  rw [decodeHead_accept h]
  exact isBusy_putBusy (popQueue s) i.rd r true

theorem decodeHead_moved_stall {i : Instr} {s : State} (h : sourcesFree i s = false) :
    decodeHead i (moved s) = moved s :=
  decodeHead_stall (by simp [sourceBusy_moved, h])

theorem decodeHead_moved_accept {i : Instr} {s : State} (h : sourcesFree i s = true) :
    decodeHead i (moved s) =
      { putBusy (popQueue (moved s)) i.rd true with
        db := some { instr := i, op1 := regAfterWriteback s i.rs,
                     op2 := regAfterWriteback s i.rt } } := by
  simp [decodeHead_accept, sourceBusy_moved, h]

theorem decodeStage_moved_stall {q : List Instr} {s : State}
    (h : ∀ i, q.head? = some i → sourcesFree i s = false) :
    decodeStage q (moved s) = moved s := by
  unfold decodeStage
  cases hq : q.head? with
  | none => rfl
  | some i => exact decodeHead_moved_stall (h i hq)

/-- The queue after decode: as it was, or without its head, which is then in `DB`. -/
theorem decodeStage_moved_q (s : State) :
    (decodeStage s.q (moved s)).q = s.q ∨
    ∃ i e, s.q = i :: (decodeStage s.q (moved s)).q ∧
      (decodeStage s.q (moved s)).db = some e ∧ e.instr = i := by
  cases hq : s.q with
  | nil => exact .inl hq
  | cons i rest =>
    have hstage : decodeStage (i :: rest) (moved s) = decodeHead i (moved s) := rfl
    rw [hstage]
    cases hfree : sourcesFree i s with
    | false => exact .inl (by rw [decodeHead_moved_stall hfree, moved_q, hq])
    | true =>
      rw [decodeHead_moved_accept hfree]
      exact .inr ⟨i, _, by simp [hq], rfl, rfl⟩

/-! ### The end of a cycle (R117, R118) -/

@[simp] theorem finishCycle_q (s : State) : (finishCycle s).q = s.q := by rw [finishCycle_eq]
@[simp] theorem finishCycle_db (s : State) : (finishCycle s).db = s.db := by rw [finishCycle_eq]
@[simp] theorem finishCycle_ab (s : State) : (finishCycle s).ab = s.ab := by rw [finishCycle_eq]
@[simp] theorem finishCycle_lb (s : State) : (finishCycle s).lb = s.lb := by rw [finishCycle_eq]
@[simp] theorem finishCycle_adr (s : State) : (finishCycle s).adr = s.adr := by rw [finishCycle_eq]
@[simp] theorem finishCycle_rsLd (s : State) : (finishCycle s).rsLd = s.rsLd := by
  rw [finishCycle_eq]
@[simp] theorem finishCycle_rsAlu (s : State) : (finishCycle s).rsAlu = s.rsAlu := by
  rw [finishCycle_eq]
@[simp] theorem finishCycle_rf (s : State) : (finishCycle s).rf = s.rf := by rw [finishCycle_eq]
@[simp] theorem finishCycle_status (s : State) :
    (finishCycle s).status = if terminal s then .done else s.status := by rw [finishCycle_eq]

@[simp] theorem readReg_finishCycle (s : State) (r : RegIdx) :
    readReg (finishCycle s) r = readReg s r :=
  readReg_congr (finishCycle_rf s) r

@[simp] theorem isBusy_finishCycle (s : State) (r : RegIdx) :
    isBusy (finishCycle s) r = isBusy s r :=
  isBusy_congr (finishCycle_rf s) r

/-- R117: the terminal test reads the queue and the six slots. -/
theorem terminal_iff (s : State) :
    terminal s = true ↔ s.q = [] ∧ s.db = none ∧ s.ab = none ∧ s.lb = none ∧ s.adr = none ∧
      s.rsLd = none ∧ s.rsAlu = none := by
  simp [terminal, and_assoc]

/-! ### An edge in RUN -/

/-- An edge in RUN commits its cycle, or enters FAULT. -/
theorem step_run_commits_or_faults {s t : State} (hrst : (nextInput s).rst = false)
    (hrun : s.status = .run) (ht : step s = .next t) :
    t = finishCycle (decodeStage s.q (moved (dropInput s))) ∨
    ∃ f, t = faultEntry f (dropInput s) := by
  obtain rfl : cycle (decodeStage s.q) (dropInput s) = t := by simpa [step_run hrst hrun] using ht
  exact cycle_commits_or_faults (decodeStage s.q) (dropInput s)

theorem eq_of_step_run_committed {s t : State} (hrst : (nextInput s).rst = false)
    (hrun : s.status = .run) (ht : step s = .next t) (hok : t.status ≠ .fault) :
    t = finishCycle (decodeStage s.q (moved (dropInput s))) := by
  obtain h | ⟨f, rfl⟩ := step_run_commits_or_faults hrst hrun ht
  · exact h
  · exact absurd (faultEntry_status (dropInput s) f) hok

/-- Settles O17: what the writeback stage does to each register, and that no later stage of a
committed cycle writes a register value. -/
theorem writebackRetiresBothSlots : Obligations.WritebackRetiresBothSlots := by
  refine ⟨fun s => ⟨fun l hl hne => ?_, fun a ha => ?_, fun r hr => ?_, stageWriteback_rsLd s,
    stageWriteback_rsAlu s⟩, fun s t hrun hrst ht hok r => ?_⟩
  · rw [readReg_stageWriteback, isBusy_stageWriteback]
    exact ⟨regAfterWriteback_of_rsLd hl hne, busyAfterWriteback_of_retiring (retiring_of_rsLd hl)⟩
  · rw [readReg_stageWriteback, isBusy_stageWriteback]
    exact ⟨regAfterWriteback_of_rsAlu ha, busyAfterWriteback_of_retiring (retiring_of_rsAlu ha)⟩
  · rw [readReg_stageWriteback, isBusy_stageWriteback]
    exact ⟨regAfterWriteback_of_not_retiring hr, busyAfterWriteback_of_not_retiring hr⟩
  · rw [eq_of_step_run_committed hrst hrun ht hok]
    simp

/-- Settles O20: each clause is what decode does to `moved`, the state it starts from when no stage
before it faults. -/
theorem decodeAcceptsFreeHead : Obligations.DecodeAcceptsFreeHead := by
  intro s hok
  refine ⟨fun i hfree => ?_, fun i hbusy => ?_, fun hq => ?_⟩
  · have hexec : exec i s = .next (finishCycle (decodeHead i (moved s))) := by
      rw [exec_eq, cycle_of_noFault _ hok]
    exact ⟨_, hexec, by simp [decodeHead_moved_accept hfree],
      by simp [isBusy_decodeHead_accept, sourceBusy_moved, hfree],
      by simp [decodeHead_moved_accept hfree]⟩
  · have hexec : exec i s = .next (finishCycle (moved s)) := by
      rw [exec_eq, cycle_of_noFault _ hok, decodeHead_moved_stall hbusy]
    exact ⟨_, hexec, by simp, by simp, by simp⟩
  · have hdrain : drainCycle s = finishCycle (moved s) := cycle_of_noFault id hok
    rw [hdrain]
    exact ⟨by simpa using hq, by simp, by simp⟩

/-- Settles O21: a stalled or idle decode stage commits `moved`. -/
theorem decodeStallsOnBusySource : Obligations.DecodeStallsOnBusySource := by
  intro s hrun hrst hok hstall
  have hstep : step s = .next (finishCycle (moved (dropInput s))) := by
    rw [step_run hrst hrun, cycle_of_noFault (s := dropInput s) _ hok,
      decodeStage_moved_stall (s := dropInput s) hstall]
  exact ⟨_, hstep, by simp, by simp, by simp, by simp [moved_lb], by simp [moved_ab],
    by simp [moved_adr_rd], by simp [moved_rsLd_rd],
    by simp [moved_rsAlu_rd (s := dropInput s) hok]⟩

/-- Settles O22: the destination is no part of the hazard check, so the head is accepted as in
O20, which marks its destination busy. -/
theorem destinationIsNotChecked : Obligations.DestinationIsNotChecked := by
  intro i s hok _ _ hfree
  obtain ⟨hacc, _, _⟩ := decodeAcceptsFreeHead s hok
  obtain ⟨t, hexec, hq, hrd, hdb⟩ := hacc i hfree
  exact ⟨t, _, hexec, hq, hdb, rfl, hrd⟩

/-- Settles O23: a committed cycle has the queue decode left, a faulting one the queue it started
with. -/
theorem decodeIsInOrder : Obligations.DecodeIsInOrder := by
  intro s t hrun hrst ht
  obtain rfl | ⟨f, rfl⟩ := step_run_commits_or_faults hrst hrun ht
  · simpa using decodeStage_moved_q (dropInput s)
  · exact .inl rfl

/-- Settles O25: the end of the cycle tests the state it commits. -/
theorem haltExactlyAtTerminal : Obligations.HaltExactlyAtTerminal := by
  intro s t hrun hrst ht hok
  have hstatus : t.status = if terminal t then .done else .run := by
    rw [eq_of_step_run_committed hrst hrun ht hok]
    simp [terminal, hrun]
  rw [← terminal_iff, hstatus]
  cases terminal t <;> simp

end Sys2Proof.Proofs
end

section
/-! PROOFS. The effective address of LD and its range check: the statements of spec/42_load.md R171
and R172. -/

namespace Sys2Proof.Proofs

open Sys2Proof Sys2Proof.Machine

/-! ### The range check (R172) -/

theorem addrValid_iff_signed (x : Word) : addrValid x = true ↔ 0 ≤ x.toInt ∧ x.toInt ≤ 7 := by
  simp [addrValid]

/-- The range check on the signed address is a bound on the unsigned one: a negative address is far
above 7. -/
theorem addrValid_iff_toNat_le (x : Word) : addrValid x = true ↔ x.toNat ≤ 7 := by
  have hlt : x.toNat < 2 ^ 32 := x.isLt
  have hsigned : x.toInt = if 2 * x.toNat < 2 ^ 32 then (x.toNat : Int) else x.toNat - 2 ^ 32 :=
    BitVec.toInt_eq_toNat_cond x
  rw [addrValid_iff_signed, hsigned]
  split <;> omega

/-! ### The effective address and the exact signed sum (R171) -/

theorem two_pow_W : (2 : Int) ^ config.W = 2 ^ 32 := rfl

theorem ea_toNat (a b : Word) : (ea a b).toNat = (a.toNat + b.toNat) % 2 ^ config.W :=
  BitVec.toNat_add a b

/-- A word's signed value and its unsigned value agree modulo 2^W, so the effective address is also
the exact signed sum modulo 2^W. -/
theorem ea_toNat_eq_signedSum_emod (a b : Word) :
    ((ea a b).toNat : Int) = (a.toInt + b.toInt) % (2 : Int) ^ config.W := by
  have hea : ea a b = BitVec.ofInt config.W (a.toInt + b.toInt) := by
    rw [BitVec.ofInt_add, BitVec.ofInt_toInt, BitVec.ofInt_toInt, ea]
  rw [hea, BitVec.toNat_ofInt, Int.natCast_pow]
  exact Int.toNat_of_nonneg (Int.emod_nonneg _ (by decide))

/-- The exact sum of two signed words lies within one 2^W of zero. -/
theorem signedSum_bounds (a b : Word) :
    -(2 : Int) ^ config.W ≤ a.toInt + b.toInt ∧ a.toInt + b.toInt < (2 : Int) ^ config.W := by
  have ha : -2 ^ 31 ≤ a.toInt ∧ a.toInt < 2 ^ 31 := ⟨a.le_toInt, a.toInt_lt⟩
  have hb : -2 ^ 31 ≤ b.toInt ∧ b.toInt < 2 ^ 31 := ⟨b.le_toInt, b.toInt_lt⟩
  rw [two_pow_W]
  omega

/-- The effective address is `k` for exactly two exact sums: `k` itself, and the one that wraps up
to `k`. -/
theorem ea_toNat_eq_iff (a b : Word) {k : Nat} (hk : k < 2 ^ config.W) :
    (ea a b).toNat = k ↔
      a.toInt + b.toInt = k ∨ a.toInt + b.toInt = -(2 : Int) ^ config.W + k := by
  have hmod := ea_toNat_eq_signedSum_emod a b
  obtain ⟨hlo, hhi⟩ := signedSum_bounds a b
  have hk' : k < 2 ^ 32 := hk
  rw [two_pow_W] at hmod hlo hhi ⊢
  constructor
  · intro h
    omega
  · rintro (h | h) <;> omega

/-- Settles O34: a valid address is a number `k` of at most 7, and the exact sums that give it are
those of `ea_toNat_eq_iff`. -/
theorem effectiveAddressRange : Obligations.EffectiveAddressRange := by
  refine fun a b => ⟨ea_toNat a b, ?_⟩
  rw [addrValid_iff_toNat_le]
  constructor
  · intro hle
    exact ⟨_, hle, rfl, (ea_toNat_eq_iff a b (ea a b).isLt).mp rfl⟩
  · rintro ⟨k, hk, hea, -⟩
    exact hea ▸ hk

end Sys2Proof.Proofs
end

section
/-! PROOFS. Faults and idle states: the statements of spec/60_exceptions.md R202 and R217. -/

namespace Sys2Proof.Proofs

open Sys2Proof Sys2Proof.Machine Sys2Proof.Laws

/-! ### DONE and FAULT (R217) -/

/-- Settles O11: outside LOAD and RUN an edge without `rst` only reads off its inputs. -/
theorem doneAndFaultAreIdle : Obligations.DoneAndFaultAreIdle := by
  intro s hidle hrst
  exact step_done_or_fault hrst hidle

/-! ### No reset to come -/

theorem rst_of_noReset {s : State} (h : noReset s) : (nextInput s).rst = false := by
  cases hin : s.inputs with
  | nil => simp [nextInput, hin, PortsIn.idle]
  | cons p rest =>
    rw [nextInput_cons hin]
    exact h p (by simp [hin])

theorem noReset_of_inputs_subset {s t : State} (h : noReset s) (ht : t.inputs ⊆ s.inputs) :
    noReset t :=
  fun p hp => h p (ht hp)

/-! ### What a committed cycle does to the slots past `DB` -/

/-- Decode touches the queue, `DB` and the register file only. -/
theorem decodeStage_shape (q : List Instr) (s : State) :
    decodeStage q s = { s with q := (decodeStage q s).q, db := (decodeStage q s).db,
                               rf := (decodeStage q s).rf } := by
  unfold decodeStage
  cases q.head? with
  | none => rfl
  | some i =>
    dsimp only [Option.elim_some]
    cases h : sourceBusy i s with
    | true => rw [decodeHead_stall h]
    | false => rw [decodeHead_accept h]; rfl

@[simp] theorem decodeStage_ab (q : List Instr) (s : State) : (decodeStage q s).ab = s.ab := by
  rw [decodeStage_shape]
@[simp] theorem decodeStage_lb (q : List Instr) (s : State) : (decodeStage q s).lb = s.lb := by
  rw [decodeStage_shape]
@[simp] theorem decodeStage_adr (q : List Instr) (s : State) : (decodeStage q s).adr = s.adr := by
  rw [decodeStage_shape]
@[simp] theorem decodeStage_inputs (q : List Instr) (s : State) :
    (decodeStage q s).inputs = s.inputs := by
  rw [decodeStage_shape]

@[simp] theorem finishCycle_inputs (s : State) : (finishCycle s).inputs = s.inputs := by
  rw [finishCycle_eq]

@[simp] theorem moved_inputs (s : State) : (moved s).inputs = s.inputs := rfl

/-- The load in `LB`, if any, forms an address in range. -/
def addressQuiet (s : State) : Prop := ∀ e, s.lb = some e → addrValid (ea e.op1 e.op2) = true

section Committed

variable {s : State} {q : List Instr}

/-- While a slot is occupied the run goes on. -/
theorem committed_status (hrun : s.status = .run)
    (hlive : terminal (finishCycle (decodeStage q (moved s))) = false) :
    (finishCycle (decodeStage q (moved s))).status = .run := by
  have hlive' : terminal (decodeStage q (moved s)) = false := by simpa [terminal] using hlive
  simp [hlive', hrun]

/-- `AB` is filled with ALU-class instructions only and `ADR` from `LB`, so the next cycle raises no
fault when the load in `LB` forms an address in range. -/
theorem committed_noFaultNow (hlb : addressQuiet s) :
    noFaultNow (finishCycle (decodeStage q (moved s))) := by
  constructor
  · intro a ha
    obtain ⟨e, he, rfl⟩ : ∃ e, s.lb = some e ∧ AddrEntry.mk e.instr.rd (ea e.op1 e.op2) = a := by
      simpa [moved] using ha
    exact hlb e he
  · intro e he
    have hclass : s.db = some e ∧ e.instr.op.isLoad = false := by
      simpa [moved, Option.filter_eq_some_iff] using he
    exact hclass.2

theorem committed_lb_of_load {e : Entry} (hdb : s.db = some e) (hload : e.instr.op.isLoad = true) :
    (finishCycle (decodeStage q (moved s))).lb = some e := by
  simp [moved, hdb, hload]

theorem committed_adr {e : Entry} (hlb : s.lb = some e) :
    (finishCycle (decodeStage q (moved s))).adr =
      some { rd := e.instr.rd, addr := ea e.op1 e.op2 } := by
  simp [moved, hlb]

theorem committed_addressQuiet
    (hdb : ∀ e, s.db = some e → e.instr.op.isLoad = true → addrValid (ea e.op1 e.op2) = true) :
    addressQuiet (finishCycle (decodeStage q (moved s))) := by
  intro e he
  obtain ⟨hs, hload⟩ : s.db = some e ∧ e.instr.op.isLoad = true := by
    simpa [moved, Option.filter_eq_some_iff] using he
  exact hdb e hs hload

end Committed

/-! ### An instruction's decode cycle and the next edges of a load (R150, R170) -/

theorem terminal_of_db {s : State} {e : Entry} (h : s.db = some e) : terminal s = false := by
  simp [terminal, h]

theorem terminal_of_lb {s : State} {e : Entry} (h : s.lb = some e) : terminal s = false := by
  simp [terminal, h]

theorem terminal_of_adr {s : State} {e : AddrEntry} (h : s.adr = some e) : terminal s = false := by
  simp [terminal, h]

/-- The block runs, no reset is to come and the coming cycle raises no fault. -/
structure Proceeds (s : State) : Prop where
  running : s.status = .run
  noReset : noReset s
  noFault : noFaultNow s

theorem step_of_proceeds {s : State} (h : Proceeds s) :
    step s = .next (finishCycle (decodeStage s.q (moved (dropInput s)))) := by
  rw [step_run (rst_of_noReset h.noReset) h.running,
    cycle_of_noFault (s := dropInput s) _ h.noFault]

/-- Decode: an instruction whose sources are free enters `DB`. When no older instruction will fault,
the next cycle raises no fault, and `LB` gives none to the one after it. -/
theorem exec_of_sourcesFree {i : Instr} {s : State} (hrun : s.status = .run) (hin : noReset s)
    (hquiet : quietAhead s) (hfree : sourcesFree i s = true) :
    ∃ t, exec i s = .next t ∧ Proceeds t ∧ addressQuiet t ∧
      t.db = some { instr := i, op1 := regAfterWriteback s i.rs,
                    op2 := regAfterWriteback s i.rt } := by
  obtain ⟨hok, hlb, hdb⟩ := hquiet
  have hexec : exec i s = .next (finishCycle (decodeStage [i] (moved s))) := by
    rw [exec_eq, cycle_of_noFault _ hok]; rfl
  have hdecoded : (finishCycle (decodeStage [i] (moved s))).db =
      some { instr := i, op1 := regAfterWriteback s i.rs, op2 := regAfterWriteback s i.rt } := by
    simp [decodeStage, decodeHead_moved_accept hfree]
  refine ⟨_, hexec, ⟨?_, ?_, committed_noFaultNow hlb⟩, committed_addressQuiet hdb, hdecoded⟩
  · exact committed_status hrun (terminal_of_db hdecoded)
  · exact noReset_of_inputs_subset hin (by simp)

/-- Issue: a load in `DB` enters `LB`. -/
theorem step_of_load_in_db {s : State} {e : Entry} (h : Proceeds s) (hlb : addressQuiet s)
    (hdb : s.db = some e) (hload : e.instr.op.isLoad = true) :
    ∃ t, step s = .next t ∧ Proceeds t ∧ t.lb = some e := by
  have hissued := committed_lb_of_load (s := dropInput s) (q := s.q) hdb hload
  exact ⟨_, step_of_proceeds h,
    { running := committed_status h.running (terminal_of_lb hissued)
      noReset := noReset_of_inputs_subset h.noReset (by simp [List.tail_subset])
      noFault := committed_noFaultNow hlb }, hissued⟩

/-- Address calculation: a load in `LB` enters `ADR` with its effective address. -/
theorem step_of_load_in_lb {s : State} {e : Entry} (h : Proceeds s) (hlb : s.lb = some e) :
    ∃ t, step s = .next t ∧ t.status = .run ∧ noReset t ∧
      t.adr = some { rd := e.instr.rd, addr := ea e.op1 e.op2 } := by
  have hformed := committed_adr (s := dropInput s) (q := s.q) hlb
  exact ⟨_, step_of_proceeds h, committed_status h.running (terminal_of_adr hformed),
    noReset_of_inputs_subset h.noReset (by simp [List.tail_subset]), hformed⟩

/-! ### The fault of the load stage (R202, R204) -/

theorem step_of_loadFault {s : State} {e : AddrEntry} (hrst : (nextInput s).rst = false)
    (hrun : s.status = .run) (hadr : s.adr = some e) (hv : addrValid e.addr = false) :
    step s = .next (faultEntry (loadAddrRange e) (dropInput s)) := by
  rw [step_run hrst hrun, cycle_of_loadFault (s := dropInput s) _ hadr hv]

/-- Settles O33: the load is followed through `DB`, `LB` and `ADR`, and the edge after that finds
its address out of range. -/
theorem ldOutOfRangeFaults : Obligations.LdOutOfRangeFaults := by
  intro rd rs rt s hrun hin hquiet hfree hout
  obtain ⟨t1, hexec, hok1, hlb1, hdb⟩ := exec_of_sourcesFree hrun hin hquiet hfree
  obtain ⟨t2, hstep1, hok2, hlb⟩ := step_of_load_in_db hok1 hlb1 hdb rfl
  obtain ⟨t3, hstep2, hrun3, hin3, hadr⟩ := step_of_load_in_lb hok2 hlb
  have hinvalid : addrValid (ea (regAfterWriteback s rs) (regAfterWriteback s rt)) = false :=
    Bool.eq_false_iff.mpr (mt (addrValid_iff_signed _).mp hout)
  have hsteps : steps 2 t1 = .next t3 := by simp [steps, hstep1, hstep2]
  exact ⟨t1, t3, _, hexec, hsteps, hrun3,
    step_of_loadFault (rst_of_noReset hin3) hrun3 hadr hinvalid, rfl, rfl, rfl⟩

end Sys2Proof.Proofs
end

section
/-! PROOFS. Reset, the load operations and `start`: the statements of spec/70_reset_and_hazards.md
R230 to R235. -/

namespace Sys2Proof.Proofs

open Sys2Proof Sys2Proof.Machine Sys2Proof.Laws

/-! ### Inputs read off -/

theorem dropInput_of_inputs {s : State} {p : PortsIn} {rest : List PortsIn}
    (h : s.inputs = p :: rest) : dropInput s = { s with inputs := rest } := by
  simp [dropInput, h]

/-! ### Reset (R230) -/

theorem step_reset {s : State} (hrst : (nextInput s).rst = true) :
    step s = .next (resetAll (dropInput s)) := by
  simp [step_eq, hrst]

/-- Settles O6: reset comes before the case on the status. -/
theorem resetOverridesEverything : Obligations.ResetOverridesEverything := by
  intro s p rest hin hrst
  rw [step_reset (by rw [nextInput_cons hin, hrst]), dropInput_of_inputs hin]
  rfl

/-! ### Outside LOAD (R233) -/

theorem run_or_idle_of_not_load {st : Status} (h : st ≠ .load) :
    st = .run ∨ st = .done ∨ st = .fault := by
  cases st with
  | load => exact absurd rfl h
  | run => exact .inl rfl
  | done => exact .inr (.inl rfl)
  | fault => exact .inr (.inr rfl)

/-- Settles O9: the edge runs a cycle or does nothing, on the state with its inputs read off. -/
theorem inputsIgnoredOutsideLoad : Obligations.InputsIgnoredOutsideLoad := by
  intro s p rest hload hrst
  have hp : (nextInput { s with inputs := p :: rest }).rst = false := hrst
  have hidle : (nextInput { s with inputs := PortsIn.idle :: rest }).rst = false := rfl
  obtain hs | hs := run_or_idle_of_not_load hload
  · exact (step_run hp hs).trans (step_run hidle hs).symm
  · exact (step_done_or_fault hp hs).trans (step_done_or_fault hidle hs).symm

/-! ### `start` (R235) -/

theorem startRun_eq_isTerminal (s : State) :
    startRun s = { s with status := if isTerminal s then .done else .run } := by
  have hiff : terminal s = true ↔ isTerminal s := by
    rw [terminal_iff, isTerminal, slotsEmpty, List.length_eq_zero_iff]
  rw [startRun, if_congr hiff rfl rfl]

/-- Settles O10: both edges apply the same loads to the same state, and one then starts. -/
theorem startLeavesLoad : Obligations.StartLeavesLoad := by
  intro s p rest hload hrst
  refine ⟨applyLoads p { s with inputs := rest }, step_load hrst hload, ?_⟩
  rw [← startRun_eq_isTerminal]
  exact step_load hrst hload

/-! ### What a push leaves alone (R232) -/

theorem pushQueue_eq (i : Instr) (s : State) :
    pushQueue i s =
      { s with
        q := if s.q.length = config.QCAP then s.q else s.q ++ [i]
        droppedCount := if s.q.length = config.QCAP then satSucc s.droppedCount
                        else s.droppedCount } := by
  unfold pushQueue
  split <;> rfl

/-- A push touches the queue and `dropped_count` only. -/
theorem pushInstr_frame (w : InstrWord) (s : State) :
    pushInstr w s = { s with q := (pushInstr w s).q,
                             droppedCount := (pushInstr w s).droppedCount } := by
  cases hdec : decode w with
  | error e => rw [pushInstr_of_decode_error hdec]
  | ok i => rw [pushInstr_of_decode hdec, pushQueue_eq]

/-! ### The load operations of one edge (R232, R234) -/

section LoadOperations

variable (p : PortsIn) (s : State)

/-- The three operations of an edge act on separate elements, so each acts on the state the edge
started from, and together they touch nothing else. -/
theorem applyLoads_eq :
    applyLoads p s =
      { s with
        q := if p.progValid then (pushInstr p.progWord s).q else s.q
        droppedCount := if p.progValid then (pushInstr p.progWord s).droppedCount
                        else s.droppedCount
        rf := if p.regValid then (writeReg s p.regIdx p.regVal).rf else s.rf
        mem := if p.memValid then s.mem.write p.memAddr.val p.memVal else s.mem } := by
  unfold applyLoads setReg
  cases p.progValid with
  | false => cases p.regValid <;> cases p.memValid <;> rfl
  | true =>
    simp only [if_true]
    rw [pushInstr_frame]
    cases p.regValid <;> cases p.memValid <;> rfl

theorem applyLoads_rf :
    (applyLoads p s).rf = (if p.regValid then writeReg s p.regIdx p.regVal else s).rf := by
  rw [applyLoads_eq, apply_ite State.rf]

theorem readReg_applyLoads (r : RegIdx) :
    readReg (applyLoads p s) r =
      if p.regValid = true ∧ r = p.regIdx then p.regVal else readReg s r := by
  rw [readReg_congr (applyLoads_rf p s)]
  cases p.regValid <;> simp

theorem isBusy_applyLoads (r : RegIdx) : isBusy (applyLoads p s) r = isBusy s r := by
  rw [isBusy_congr (applyLoads_rf p s)]
  cases p.regValid <;> simp

theorem read_applyLoads (hmem : s.mem.wf) (a : Nat) :
    (applyLoads p s).mem.read a =
      if p.memValid = true ∧ a = p.memAddr.val then p.memVal else s.mem.read a := by
  cases hvalid : p.memValid with
  | false => simp [applyLoads_eq, hvalid]
  | true => simp [applyLoads_eq, hvalid, read_write hmem]

end LoadOperations

/-- Settles O7: the edge is the load operations on the state with its inputs read off; the queue and
`dropped_count` follow by the cases of the push, the rest by one lemma per element. -/
theorem loadOperationsTakeEffect : Obligations.LoadOperationsTakeEffect := by
  intro s p rest hload hmem hin hrst hstart
  have hnext := nextInput_cons hin
  have hstep : step s = .next (applyLoads p { s with inputs := rest }) := by
    rw [step_load (by rw [hnext, hrst]) hload, hnext, dropInput_of_inputs hin]
    simp [loadEdge, hstart]
  refine ⟨_, hstep, ?_, ?_, readReg_applyLoads p _, isBusy_applyLoads p _,
    read_applyLoads p _ hmem, ?_⟩
  · rw [applyLoads_eq]
    cases p.progValid with
    | false => rfl
    | true =>
      cases hdec : decode p.progWord with
      | error e => simp [pushInstr_of_decode_error hdec]
      | ok i => simp [pushInstr_of_decode hdec, pushQueue_eq]
  · rw [applyLoads_eq]
    cases p.progValid with
    | false => rfl
    | true =>
      cases hdec : decode p.progWord with
      | error e => simp [pushInstr_of_decode_error hdec]
      | ok i => simp [pushInstr_of_decode hdec, pushQueue_eq]
  · rw [applyLoads_eq]

end Sys2Proof.Proofs
end

section
/-! PROOFS. The instruction word, both ways: the statements of spec/30_encoding.md R72 to R78. -/

namespace Sys2Proof.Proofs

open Sys2Proof Sys2Proof.Machine Sys2Proof.Laws

/-! ### The opcode numbers (R73) -/

theorem ofBits_eq_some_iff (b : BitVec 3) (op : Opcode) :
    Opcode.ofBits b = some op ↔ b = op.bits := by
  cases op <;> revert b <;> decide

/-! ### The fields of a word (R72) -/

/-- R72: a word is its four fields side by side. -/
theorem fields_append (w : InstrWord) :
    (opField w ++ rdField w ++ rsField w ++ rtField w : BitVec (3 + 3 + 3 + 3)) = w := by
  unfold opField rdField rsField rtField
  rw [BitVec.extractLsb'_append_extractLsb'_eq_extractLsb' (by rfl),
    BitVec.extractLsb'_append_extractLsb'_eq_extractLsb' (by rfl),
    BitVec.extractLsb'_append_extractLsb'_eq_extractLsb' (by rfl)]
  exact BitVec.extractLsb'_eq_self

section FieldOfAppend

variable (op d a b : BitVec 3)

theorem opField_append : opField (op ++ d ++ a ++ b : BitVec (3 + 3 + 3 + 3)) = op := by
  unfold opField
  rw [BitVec.extractLsb'_append_eq_of_le (by decide),
    BitVec.extractLsb'_append_eq_of_le (by decide)]
  exact BitVec.extractLsb'_append_eq_left

theorem rdField_append : rdField (op ++ d ++ a ++ b : BitVec (3 + 3 + 3 + 3)) = d := by
  unfold rdField
  rw [BitVec.extractLsb'_append_eq_of_le (by decide),
    BitVec.extractLsb'_append_eq_of_le (by decide)]
  exact BitVec.extractLsb'_append_eq_right

theorem rsField_append : rsField (op ++ d ++ a ++ b : BitVec (3 + 3 + 3 + 3)) = a := by
  unfold rsField
  rw [BitVec.extractLsb'_append_eq_of_le (by decide)]
  exact BitVec.extractLsb'_append_eq_right

theorem rtField_append : rtField (op ++ d ++ a ++ b : BitVec (3 + 3 + 3 + 3)) = b :=
  BitVec.extractLsb'_append_eq_right

end FieldOfAppend

/-! ### The fields of an instruction (R71, R74) -/

@[simp] theorem regOfBits_regBits (r : RegIdx) : regOfBits (regBits r) = r := rfl
@[simp] theorem regBits_regOfBits (b : BitVec 3) : regBits (regOfBits b) = b := rfl

theorem ofFields_fields (i : Instr) : Instr.ofFields i.op i.rd i.rs i.rt = i := by
  cases i <;> rfl

section OfFields

variable (op : Opcode) (d a b : RegIdx)

@[simp] theorem ofFields_op : (Instr.ofFields op d a b).op = op := by cases op <;> rfl
@[simp] theorem ofFields_rd : (Instr.ofFields op d a b).rd = d := by cases op <;> rfl
@[simp] theorem ofFields_rs : (Instr.ofFields op d a b).rs = a := by cases op <;> rfl
@[simp] theorem ofFields_rt : (Instr.ofFields op d a b).rt = b := by cases op <;> rfl

end OfFields

/-! ### The round trip -/

/-- A word decodes to the instruction its fields name, exactly when its opcode number is one of
rule R73. -/
theorem decode_eq_ok_iff (w : InstrWord) (i : Instr) :
    decode w = .ok i ↔ opField w = i.op.bits ∧
      i = Instr.ofFields i.op (regOfBits (rdField w)) (regOfBits (rsField w))
        (regOfBits (rtField w)) := by
  rw [← ofBits_eq_some_iff]
  unfold decode
  cases hop : Opcode.ofBits (opField w) with
  | none => simp
  | some op =>
    simp only [Except.ok.injEq, Option.some.injEq]
    constructor
    · rintro rfl; simp
    · rintro ⟨rfl, hi⟩; exact hi.symm

theorem decode_encode (i : Instr) : decode (encode i) = .ok i := by
  rw [decode_eq_ok_iff, encode, opField_append, rdField_append, rsField_append, rtField_append]
  simp [ofFields_fields]

theorem encode_of_decode {w : InstrWord} {i : Instr} (h : decode w = .ok i) : encode i = w := by
  obtain ⟨hop, hi⟩ := (decode_eq_ok_iff w i).mp h
  rw [hi, encode]
  simp only [ofFields_op, ofFields_rd, ofFields_rs, ofFields_rt, regBits_regOfBits, ← hop]
  exact fields_append w

/-- Settles O2: encoding lays the four fields side by side, and decoding reads them off again. -/
theorem decodeAndEncodeAreInverse : Obligations.DecodeAndEncodeAreInverse :=
  ⟨decode_encode, fun _ _ => encode_of_decode⟩

/-! ### The opcode table (R73) -/

/-- Every row of the table masks the opcode field and matches its opcode's number there. -/
theorem mask_and_pattern_of_row :
    ∀ row ∈ opcodeTable, row.mask = 0xE00 ∧
      row.pattern = (row.opcode.bits ++ (0 : BitVec 9) : BitVec (3 + 9)) := by
  decide

theorem row_matches_iff {row : OpcodeRow} (hrow : row ∈ opcodeTable) (w : InstrWord) :
    w &&& row.mask = row.pattern ↔ opField w = row.opcode.bits := by
  obtain ⟨hmask, hpattern⟩ := mask_and_pattern_of_row row hrow
  have hmasked : w &&& 0xE00 = (opField w ++ (0 : BitVec 9) : BitVec (3 + 9)) :=
    calc w &&& 0xE00
        = (opField w ++ rdField w ++ rsField w ++ rtField w : BitVec (3 + 3 + 3 + 3)) &&&
            (0xE00 : InstrWord) := by rw [fields_append]
      _ = _ := RowMatch.mask_append _ _ _ _
  rw [hmask, hpattern, hmasked, BitVec.append_left_inj]

theorem decodes_to_opcode_iff (w : InstrWord) (op : Opcode) :
    (∃ i, decode w = .ok i ∧ i.op = op) ↔ opField w = op.bits := by
  constructor
  · rintro ⟨i, hdec, rfl⟩
    exact ((decode_eq_ok_iff w i).mp hdec).1
  · intro hop
    refine ⟨Instr.ofFields op (regOfBits (rdField w)) (regOfBits (rsField w))
      (regOfBits (rtField w)), (decode_eq_ok_iff w _).mpr ⟨?_, ?_⟩, ?_⟩ <;> simp [hop]

/-- R77: the numbers no row has are the three reserved ones. -/
theorem no_row_iff_reserved :
    ∀ b : BitVec 3, (∀ row ∈ opcodeTable, b ≠ row.opcode.bits) ↔ b ∈ [0b101, 0b110, 0b111] := by
  decide

/-- Settles O3: a row's mask compares the opcode field with the row's opcode number, and so does the
decoder. -/
theorem opcodeTableSelectsOpcode : Obligations.OpcodeTableSelectsOpcode := by
  refine ⟨fun row hrow w => (row_matches_iff hrow w).trans (decodes_to_opcode_iff w _).symm,
    fun w => ?_⟩
  have hrows : (∀ row ∈ opcodeTable, w &&& row.mask ≠ row.pattern) ↔
      ∀ row ∈ opcodeTable, opField w ≠ row.opcode.bits :=
    forall₂_congr fun row hrow => not_congr (row_matches_iff hrow w)
  rw [hrows, no_row_iff_reserved]
  exact ⟨fun hres => ⟨hres, decode_of_reserved hres⟩, And.left⟩

/-- Settles O1: the six words of the spec, run through the decoder. -/
theorem specWordsDecode : Obligations.SpecWordsDecode := by
  refine ⟨rfl, rfl, rfl, rfl, rfl, ?_⟩
  exact decode_of_reserved (w := 0b101_000_000_000) (by decide)

end Sys2Proof.Proofs
end

section
/-! PROOFS. One clock edge in cases, the committed cycle element by element, and the statements of
spec/40_pipeline.md R102, R103 and R115 and of spec/60_exceptions.md R204. -/

namespace Sys2Proof.Proofs

open Sys2Proof Sys2Proof.Machine Sys2Proof.Laws

/-! ### One clock edge in cases -/

/-- The next state of an edge: reset, the load operations, a cycle, or nothing. -/
theorem step_cases {s t : State} (ht : step s = .next t) :
    ((nextInput s).rst = true ∧ t = resetAll (dropInput s)) ∨
    ((nextInput s).rst = false ∧ s.status = .load ∧ t = loadEdge (nextInput s) (dropInput s)) ∨
    ((nextInput s).rst = false ∧ s.status = .run ∧
      t = cycle (decodeStage s.q) (dropInput s)) ∨
    ((nextInput s).rst = false ∧ (s.status = .done ∨ s.status = .fault) ∧ t = dropInput s) := by
  cases hrst : (nextInput s).rst with
  | true => exact .inl ⟨rfl, by simpa [step_reset hrst] using ht.symm⟩
  | false =>
    cases hs : s.status with
    | load => exact .inr (.inl ⟨rfl, rfl, by simpa [step_load hrst hs] using ht.symm⟩)
    | run => exact .inr (.inr (.inl ⟨rfl, rfl, by simpa [step_run hrst hs] using ht.symm⟩))
    | done =>
      exact .inr (.inr (.inr ⟨rfl, .inl rfl, by
        simpa [step_done_or_fault hrst (.inl hs)] using ht.symm⟩))
    | fault =>
      exact .inr (.inr (.inr ⟨rfl, .inr rfl, by
        simpa [step_done_or_fault hrst (.inr hs)] using ht.symm⟩))

/-- Settles O14: `step_eq` names the next state. -/
theorem everyEdgeHasOneSuccessor : Obligations.EveryEdgeHasOneSuccessor :=
  fun s => ⟨_, step_eq s⟩

/-- Settles O13: the decode stage of an edge in RUN is that of the head, if there is one. -/
theorem stepRunsHeadInstruction : Obligations.StepRunsHeadInstruction := by
  intro s hrun hrst
  refine ⟨fun i rest hq => ?_, fun hq => ?_⟩
  · have hstage : decodeStage s.q = decodeHead i := by rw [hq]; rfl
    rw [step_run hrst hrun, exec_eq, hstage]
    rfl
  · have hstage : decodeStage s.q = id := by rw [hq]; rfl
    rw [step_run hrst hrun, hstage]
    rfl

/-! ### What a committed cycle leaves alone -/

@[simp] theorem moved_mem (s : State) : (moved s).mem = s.mem := rfl
@[simp] theorem moved_faultCode (s : State) : (moved s).faultCode = s.faultCode := rfl
@[simp] theorem moved_faultInfo (s : State) : (moved s).faultInfo = s.faultInfo := rfl
@[simp] theorem moved_droppedCount (s : State) : (moved s).droppedCount = s.droppedCount := rfl

@[simp] theorem decodeStage_rsLd (q : List Instr) (s : State) :
    (decodeStage q s).rsLd = s.rsLd := by rw [decodeStage_shape]
@[simp] theorem decodeStage_rsAlu (q : List Instr) (s : State) :
    (decodeStage q s).rsAlu = s.rsAlu := by rw [decodeStage_shape]
@[simp] theorem decodeStage_mem (q : List Instr) (s : State) :
    (decodeStage q s).mem = s.mem := by rw [decodeStage_shape]
@[simp] theorem decodeStage_faultCode (q : List Instr) (s : State) :
    (decodeStage q s).faultCode = s.faultCode := by rw [decodeStage_shape]
@[simp] theorem decodeStage_faultInfo (q : List Instr) (s : State) :
    (decodeStage q s).faultInfo = s.faultInfo := by rw [decodeStage_shape]
@[simp] theorem decodeStage_droppedCount (q : List Instr) (s : State) :
    (decodeStage q s).droppedCount = s.droppedCount := by rw [decodeStage_shape]

@[simp] theorem finishCycle_mem (s : State) : (finishCycle s).mem = s.mem := by
  rw [finishCycle_eq]
@[simp] theorem finishCycle_faultCode (s : State) : (finishCycle s).faultCode = s.faultCode := by
  rw [finishCycle_eq]
@[simp] theorem finishCycle_faultInfo (s : State) : (finishCycle s).faultInfo = s.faultInfo := by
  rw [finishCycle_eq]
@[simp] theorem finishCycle_cycleCount (s : State) :
    (finishCycle s).cycleCount = satSucc s.cycleCount := by rw [finishCycle_eq]
@[simp] theorem finishCycle_droppedCount (s : State) :
    (finishCycle s).droppedCount = s.droppedCount := by rw [finishCycle_eq]
@[simp] theorem terminal_finishCycle (s : State) : terminal (finishCycle s) = terminal s := by
  simp [terminal]

/-! ### Decode after the stages before it, in its two cases -/

/-- `moved` with `i` accepted: off the queue, its destination busy, `i` and its operands in `DB`. -/
def accepted (i : Instr) (s : State) : State :=
  { putBusy (popQueue (moved s)) i.rd true with
    db := some { instr := i, op1 := regAfterWriteback s i.rs, op2 := regAfterWriteback s i.rt } }

/-- Decode accepts the head when its sources are free, and does nothing otherwise. -/
theorem decodeStage_moved_cases (q : List Instr) (s : State) :
    ((∀ i, q.head? = some i → sourcesFree i s = false) ∧ decodeStage q (moved s) = moved s) ∨
    ∃ i, q.head? = some i ∧ sourcesFree i s = true ∧
      decodeStage q (moved s) = accepted i s := by
  cases hq : q.head? with
  | none =>
    have hidle : ∀ i, q.head? = some i → sourcesFree i s = false := fun i hi => by simp [hq] at hi
    exact .inl ⟨by simp, decodeStage_moved_stall hidle⟩
  | some i =>
    cases hfree : sourcesFree i s with
    | false =>
      have hstall : ∀ j, q.head? = some j → sourcesFree j s = false := fun j hj => by
        obtain rfl : i = j := by simpa [hq] using hj
        exact hfree
      exact .inl ⟨by simp [hfree], decodeStage_moved_stall hstall⟩
    | true =>
      exact .inr ⟨i, rfl, hfree, by simp [decodeStage, hq, decodeHead_moved_accept hfree, accepted]⟩

@[simp] theorem accepted_db (i : Instr) (s : State) :
    (accepted i s).db = some { instr := i, op1 := regAfterWriteback s i.rs,
                               op2 := regAfterWriteback s i.rt } := rfl
@[simp] theorem accepted_q (i : Instr) (s : State) : (accepted i s).q = s.q.tail := rfl

@[simp] theorem isBusy_accepted (i : Instr) (s : State) (r : RegIdx) :
    isBusy (accepted i s) r = if r = i.rd then true else busyAfterWriteback s r :=
  (isBusy_putBusy (popQueue (moved s)) i.rd r true).trans (by simp)

/-- R103, R110: decode sets the busy flag of what it puts in `DB`, writeback clears the flags of
what retires. -/
theorem isBusy_decodeStage_moved (q : List Instr) (s : State) (r : RegIdx) :
    isBusy (decodeStage q (moved s)) r =
      (Entry.names (decodeStage q (moved s)).db r || busyAfterWriteback s r) := by
  obtain ⟨_, h⟩ | ⟨i, _, _, h⟩ := decodeStage_moved_cases q s
  · simp [h, Entry.names]
  · rw [h]
    by_cases hr : r = i.rd
    · simp [Entry.names, hr]
    · simp [Entry.names, hr, Ne.symm hr]

/-- Settles O18: decode and writeback are the only stages of a committed cycle that touch a busy
flag. -/
theorem busyFlagsFollowDecodeAndWriteback : Obligations.BusyFlagsFollowDecodeAndWriteback := by
  intro s t hrun hrst ht hok r
  rw [eq_of_step_run_committed hrst hrun ht hok, isBusy_finishCycle, finishCycle_db,
    isBusy_decodeStage_moved, busyAfterWriteback_dropInput]
  rfl

/-! ### The slots (R102) -/

/-- A cycle that faults ends in FAULT. -/
theorem noFaultNow_of_cycle {d : State → State} {s : State} (hok : (cycle d s).status ≠ .fault) :
    noFaultNow s := by
  obtain ⟨h, _⟩ | ⟨e, _, _, h⟩ | ⟨e, _, _, _, h⟩ := cycle_cases d s
  · exact h
  · exact absurd (by simp [h]) hok
  · exact absurd (by simp [h]) hok

theorem noFaultNow_of_step_run {s t : State} (hrst : (nextInput s).rst = false)
    (hrun : s.status = .run) (ht : step s = .next t) (hok : t.status ≠ .fault) : noFaultNow s := by
  obtain rfl : cycle (decodeStage s.q) (dropInput s) = t := by simpa [step_run hrst hrun] using ht
  exact noFaultNow_of_cycle (s := dropInput s) hok

/-- The two issue stages act on opposite cases of the entry in `DB`. -/
theorem issue_comm (s : State) :
    stageIssueAlu (stageIssueLoad s) = stageIssueLoad (stageIssueAlu s) := by
  unfold stageIssueAlu stageIssueLoad
  cases hdb : s.db with
  | none => simp [hdb]
  | some e => cases hop : e.instr.op.isLoad <;> simp [hdb, hop]

/-- The ALU stage reads and writes `AB` and `RS_ALU`, address calculation `LB` and `ADR`. -/
theorem alu_addrCalc_comm (s : State) :
    (stageAlu s).map stageAddrCalc = stageAlu (stageAddrCalc s) := by
  unfold stageAlu stageAddrCalc
  cases hab : s.ab with
  | none => cases hlb : s.lb <;> simp [hab, hlb, Except.map]
  | some e =>
    cases hv : alu e.instr.op e.op1 e.op2 <;> cases hlb : s.lb <;> simp [hab, hv, hlb, Except.map]

/-- Settles O16: a committed cycle's slots are those of `moved`, and decode fills `DB` only. -/
theorem eachSlotAdvancesOneStage : Obligations.EachSlotAdvancesOneStage := by
  refine ⟨fun s t hrun hrst ht hok => ?_, issue_comm, alu_addrCalc_comm⟩
  have hno := noFaultNow_of_step_run hrst hrun ht hok
  rw [eq_of_step_run_committed hrst hrun ht hok]
  exact ⟨by simp [moved_lb], by simp [moved_ab], by simp [moved_adr_rd], by simp [moved_rsLd_rd],
    by simp [moved_rsAlu_rd (s := dropInput s) hno], by simp⟩

/-! ### A retiring result read at once (R115) -/

/-- O20's accepting clause, with the operands read off the entry. -/
theorem exec_accepts {i : Instr} {s : State} (hok : noFaultNow s)
    (hrs : busyAfterWriteback s i.rs = false) (hrt : busyAfterWriteback s i.rt = false) :
    ∃ t e, exec i s = .next t ∧ t.q = s.q.tail ∧ t.db = some e ∧ e.instr = i ∧
      e.op1 = regAfterWriteback s i.rs ∧ e.op2 = regAfterWriteback s i.rt := by
  obtain ⟨hacc, _, _⟩ := decodeAcceptsFreeHead s hok
  obtain ⟨t, hexec, hq, _, hdb⟩ := hacc i (by simp [sourcesFree, hrs, hrt])
  exact ⟨t, _, hexec, hq, hdb, rfl, rfl, rfl⟩

/-- Settles O24: a retiring source is free after writeback and reads as the retiring value. -/
theorem retiringResultIsReadAtOnce : Obligations.RetiringResultIsReadAtOnce := by
  intro i s hok
  have alu_free : ∀ a, s.rsAlu = some a → busyAfterWriteback s a.rd = false := fun a ha =>
    busyAfterWriteback_of_retiring (retiring_of_rsAlu ha)
  have ld_free : ∀ l, s.rsLd = some l → busyAfterWriteback s l.rd = false := fun l hl =>
    busyAfterWriteback_of_retiring (retiring_of_rsLd hl)
  have ld_value : ∀ l, s.rsLd = some l → ResultEntry.names s.rsAlu l.rd = false →
      regAfterWriteback s l.rd = l.value := fun l hl hne =>
    regAfterWriteback_of_rsLd hl fun a ha => by simpa [ResultEntry.names, ha] using hne
  refine ⟨fun a ha hsrc hother => ?_, fun a ha hsrc hother => ?_, fun l hl hne hsrc hother => ?_,
    fun l hl hne hsrc hother => ?_⟩
  · obtain ⟨t, e, hexec, hq, hdb, hi, hop, _⟩ := exec_accepts hok (hsrc ▸ alu_free a ha) hother
    exact ⟨t, e, hexec, hq, hdb, hi, by rw [hop, hsrc, regAfterWriteback_of_rsAlu ha]⟩
  · obtain ⟨t, e, hexec, hq, hdb, hi, _, hop⟩ := exec_accepts hok hother (hsrc ▸ alu_free a ha)
    exact ⟨t, e, hexec, hq, hdb, hi, by rw [hop, hsrc, regAfterWriteback_of_rsAlu ha]⟩
  · obtain ⟨t, e, hexec, hq, hdb, hi, hop, _⟩ := exec_accepts hok (hsrc ▸ ld_free l hl) hother
    exact ⟨t, e, hexec, hq, hdb, hi, by rw [hop, hsrc, ld_value l hl hne]⟩
  · obtain ⟨t, e, hexec, hq, hdb, hi, _, hop⟩ := exec_accepts hok hother (hsrc ▸ ld_free l hl)
    exact ⟨t, e, hexec, hq, hdb, hi, by rw [hop, hsrc, ld_value l hl hne]⟩

/-! ### Faults (R204) -/

theorem isLoad_iff (op : Opcode) : op.isLoad = true ↔ op = .ld := by
  simp [isLoad_eq_beq_ld]

theorem aluBadOpcode_of_load {e : Entry} (h : e.instr.op = .ld) :
    aluBadOpcode e =
      { code := .aluBadOpcode
        info := { stage := .alu, rd := e.instr.rd, addrOrOpcode := 4 } } := by
  rw [aluBadOpcode, h]; rfl

/-- Settles O37: the cycle's two faulting outcomes, each over the state the edge started from. -/
theorem faultCommitsOnlyFaultRegisters : Obligations.FaultCommitsOnlyFaultRegisters := by
  intro s hrun hrst
  refine ⟨fun e he hout => ?_, fun e hin he hop => ?_⟩
  · have hinvalid : addrValid e.addr = false :=
      Bool.eq_false_iff.mpr (mt (addrValid_iff_signed _).mp hout)
    rw [step_of_loadFault hrst hrun he hinvalid]
    rfl
  · have hvalid : ∀ l, s.adr = some l → addrValid l.addr = true := fun l hl =>
      (addrValid_iff_signed _).mpr (hin l hl)
    rw [step_run hrst hrun,
      cycle_of_aluFault (s := dropInput s) _ hvalid he ((isLoad_iff _).mpr hop),
      aluBadOpcode_of_load hop]
    rfl

/-! ### The frame of an instruction -/

/-- Settles O36: a faulting cycle by the shape of fault entry, a committed one element by
element. -/
theorem instructionFrame : Obligations.InstructionFrame := by
  intro i s hrun
  rw [exec_eq]
  have hstage : decodeHead i = decodeStage [i] := rfl
  rw [hstage]
  obtain h | ⟨f, h⟩ := cycle_commits_or_faults (decodeStage [i]) s
  · rw [h]
    refine ⟨_, rfl, by simp, by simp, by simp, by simp, fun hfault => ?_,
      fun _ => ⟨by simp, by simp, fun r hr => ?_, fun r hr hne => ?_, ?_⟩⟩
    · simp only [finishCycle_status, decodeStage_status, moved_status, hrun] at hfault
      split at hfault <;> cases hfault
    · simp [regAfterWriteback_of_not_retiring hr]
    · rw [isBusy_finishCycle]
      obtain ⟨_, hd⟩ | ⟨j, hj, _, hd⟩ := decodeStage_moved_cases [i] s
      · simp [hd, busyAfterWriteback_of_not_retiring hr]
      · obtain rfl : i = j := by simpa using hj
        simp [hd, hne, busyAfterWriteback_of_not_retiring hr]
    · rw [finishCycle_q]
      obtain ⟨_, hd⟩ | ⟨j, _, _, hd⟩ := decodeStage_moved_cases [i] s
      · simp [hd]
      · simp [hd]
  · rw [h]
    exact ⟨_, rfl, rfl, fun _ => rfl, rfl, rfl, fun _ => rfl, fun hok => absurd rfl hok⟩

end Sys2Proof.Proofs
end

section
/-! PROOFS. The invariant of rules R26, R34, R35, R40 and R41, that every clock edge keeps it, and
what it says of the reachable states. -/

namespace Sys2Proof.Proofs

open Sys2Proof Sys2Proof.Machine Sys2Proof.Laws

/-! ### The base case -/

/-- Settles O40: at reset the queue, memory and every slot are empty and nothing is busy. -/
theorem resetMeetsTheInvariant : Obligations.ResetMeetsTheInvariant := fun inputs =>
  { capacity := by simp [State.reset]
    memForm := reset_mem_wf
    aluClass := fun e h => by simp [State.reset] at h
    loadClass := fun e h => by simp [State.reset] at h
    busyInFlight := fun r h => by
      have hreset : isBusy State.reset r = true := h
      simp at hreset
    loadQuiet := fun _ => ⟨⟨rfl, rfl, rfl, rfl, rfl, rfl⟩, rfl⟩
    runLive := fun h => by simp [State.reset] at h
    doneTerminal := fun h => by simp [State.reset] at h
    faultRecorded := fun h => by simp [State.reset] at h
    faultClear := fun _ => ⟨rfl, rfl⟩ }

/-- The inputs to come have no part in the invariant. -/
theorem inv_dropInput {s : State} (h : Inv s) : Inv (dropInput s) :=
  { capacity := h.capacity
    memForm := h.memForm
    aluClass := h.aluClass
    loadClass := h.loadClass
    busyInFlight := h.busyInFlight
    loadQuiet := h.loadQuiet
    runLive := h.runLive
    doneTerminal := h.doneTerminal
    faultRecorded := h.faultRecorded
    faultClear := h.faultClear }

/-! ### The load operations and `start` -/

theorem pushQueue_of_room {s : State} (h : s.q.length ≠ config.QCAP) (i : Instr) :
    pushQueue i s = { s with q := s.q ++ [i] } :=
  if_neg h

/-- R26: a push leaves at most `QCAP` instructions in the queue. -/
theorem pushQueue_q_length_le {s : State} (h : s.q.length ≤ config.QCAP) (i : Instr) :
    (pushQueue i s).q.length ≤ config.QCAP := by
  by_cases hfull : s.q.length = config.QCAP
  · rw [pushQueue_of_full hfull]
    exact h
  · rw [pushQueue_of_room hfull, List.length_append, List.length_singleton]
    exact Nat.lt_of_le_of_ne h hfull

theorem pushInstr_q_length_le {s : State} (h : s.q.length ≤ config.QCAP) (w : InstrWord) :
    (pushInstr w s).q.length ≤ config.QCAP := by
  cases hdec : decode w with
  | error e => rwa [pushInstr_of_decode_error hdec]
  | ok i =>
    rw [pushInstr_of_decode hdec]
    exact pushQueue_q_length_le h i

theorem applyLoads_q_length_le {s : State} (h : s.q.length ≤ config.QCAP) (p : PortsIn) :
    (applyLoads p s).q.length ≤ config.QCAP := by
  rw [applyLoads_eq]
  cases p.progValid with
  | false => exact h
  | true => exact pushInstr_q_length_le h p.progWord

theorem applyLoads_mem_wf {s : State} (h : s.mem.wf) (p : PortsIn) : (applyLoads p s).mem.wf := by
  rw [applyLoads_eq]
  cases p.memValid with
  | false => exact h
  | true => exact wf_write p.memAddr.isLt h

section LoadFrame

variable (p : PortsIn) (s : State)

@[simp] theorem applyLoads_db : (applyLoads p s).db = s.db := by rw [applyLoads_eq]
@[simp] theorem applyLoads_ab : (applyLoads p s).ab = s.ab := by rw [applyLoads_eq]
@[simp] theorem applyLoads_lb : (applyLoads p s).lb = s.lb := by rw [applyLoads_eq]
@[simp] theorem applyLoads_adr : (applyLoads p s).adr = s.adr := by rw [applyLoads_eq]
@[simp] theorem applyLoads_rsLd : (applyLoads p s).rsLd = s.rsLd := by rw [applyLoads_eq]
@[simp] theorem applyLoads_rsAlu : (applyLoads p s).rsAlu = s.rsAlu := by rw [applyLoads_eq]
@[simp] theorem applyLoads_status : (applyLoads p s).status = s.status := by rw [applyLoads_eq]
@[simp] theorem applyLoads_faultCode : (applyLoads p s).faultCode = s.faultCode := by
  rw [applyLoads_eq]
@[simp] theorem applyLoads_faultInfo : (applyLoads p s).faultInfo = s.faultInfo := by
  rw [applyLoads_eq]
@[simp] theorem applyLoads_inputs : (applyLoads p s).inputs = s.inputs := by rw [applyLoads_eq]
theorem applyLoads_mem :
    (applyLoads p s).mem = if p.memValid then s.mem.write p.memAddr.val p.memVal else s.mem := by
  rw [applyLoads_eq]

end LoadFrame

theorem inv_applyLoads {s : State} (h : Inv s) (hload : s.status = .load) (p : PortsIn) :
    Inv (applyLoads p s) :=
  { capacity := applyLoads_q_length_le h.capacity p
    memForm := applyLoads_mem_wf h.memForm p
    aluClass := by simpa using h.aluClass
    loadClass := by simpa using h.loadClass
    busyInFlight := fun r hr => by
      rw [isBusy_applyLoads] at hr
      simpa [inFlight, inFlightPastDecode] using h.busyInFlight r hr
    loadQuiet := fun _ => by simpa [slotsEmpty] using h.loadQuiet hload
    runLive := fun hs => by simp [hload] at hs
    doneTerminal := fun hs => by simp [hload] at hs
    faultRecorded := fun hs => by simp [hload] at hs
    faultClear := fun _ => by simpa using h.faultClear (by simp [hload]) }

theorem startRun_status_ne_load (s : State) : (startRun s).status ≠ .load := by
  rw [startRun_status]; split <;> simp

theorem startRun_status_ne_fault (s : State) : (startRun s).status ≠ .fault := by
  rw [startRun_status]; split <;> simp

/-- R235: `start` picks the status that fits the terminal test. -/
theorem inv_startRun {s : State} (h : Inv s) (hload : s.status = .load) : Inv (startRun s) :=
  { capacity := h.capacity
    memForm := h.memForm
    aluClass := h.aluClass
    loadClass := h.loadClass
    busyInFlight := h.busyInFlight
    loadQuiet := fun hs => absurd hs (startRun_status_ne_load s)
    runLive := fun hs => by
      show terminal s = false
      by_contra hterm
      simp [hterm] at hs
    doneTerminal := fun hs => by
      show terminal s = true
      by_contra hterm
      simp [hterm] at hs
    faultRecorded := fun hs => absurd hs (startRun_status_ne_fault s)
    faultClear := fun _ => h.faultClear (by simp [hload]) }

theorem inv_loadEdge {s : State} (h : Inv s) (hload : s.status = .load) (p : PortsIn) :
    Inv (loadEdge p s) := by
  have hloads := inv_applyLoads h hload p
  unfold loadEdge
  cases p.start with
  | false => exact hloads
  | true => exact inv_startRun hloads (by simp [hload])

/-! ### What is in flight after a committed cycle (R41, R102) -/

theorem entryNames_eq (o : Option Entry) (r : RegIdx) :
    Entry.names o r = (o.map (fun e => e.instr.rd) == some r) := by
  cases o <;> simp [Entry.names]

theorem addrNames_eq (o : Option AddrEntry) (r : RegIdx) :
    AddrEntry.names o r = (o.map AddrEntry.rd == some r) := by
  cases o <;> simp [AddrEntry.names]

theorem resultNames_eq (o : Option ResultEntry) (r : RegIdx) :
    ResultEntry.names o r = (o.map ResultEntry.rd == some r) := by
  cases o <;> simp [ResultEntry.names]

/-- Issue keeps the destination of the entry in `DB`, in one slot or the other. -/
theorem names_issued (s : State) (r : RegIdx) :
    (Entry.names (moved s).ab r || Entry.names (moved s).lb r) = Entry.names s.db r := by
  cases hdb : s.db with
  | none => simp [moved, hdb, Entry.names]
  | some e => cases hop : e.instr.op.isLoad <;> simp [moved, hdb, hop, Entry.names]

/-- After the stages before decode, what is in flight is what was and has not retired. -/
theorem inFlightPastDecode_moved {s : State} (hok : noFaultNow s) (r : RegIdx) :
    inFlightPastDecode (moved s) r =
      (Entry.names s.db r || Entry.names s.ab r || Entry.names s.lb r ||
        AddrEntry.names s.adr r) := by
  rw [inFlightPastDecode, names_issued, addrNames_eq, resultNames_eq, resultNames_eq, moved_adr_rd,
    moved_rsLd_rd, moved_rsAlu_rd hok, ← entryNames_eq, ← entryNames_eq, ← addrNames_eq]
  ac_rfl

theorem inFlight_eq {s : State} (hok : noFaultNow s) (r : RegIdx) :
    inFlight s r = (inFlightPastDecode (moved s) r || retiring s r) := by
  rw [inFlightPastDecode_moved hok, inFlight, inFlightPastDecode, retiring]
  ac_rfl

theorem inFlight_committed (q : List Instr) (s : State) (r : RegIdx) :
    inFlight (finishCycle (decodeStage q (moved s))) r =
      (Entry.names (decodeStage q (moved s)).db r || inFlightPastDecode (moved s) r) := by
  simp [inFlight, inFlightPastDecode]

/-- R41(a): every busy register has a writer in flight. -/
def BusyInFlight (s : State) : Prop := ∀ r, isBusy s r = true → inFlight s r = true

/-- A register busy after a committed cycle is named by the entry in `DB`, or was busy and its
writer has not retired. -/
theorem busyInFlight_committed {s : State} (hok : noFaultNow s) (h : BusyInFlight s)
    (q : List Instr) : BusyInFlight (finishCycle (decodeStage q (moved s))) := by
  intro r hr
  rw [isBusy_finishCycle, isBusy_decodeStage_moved, Bool.or_eq_true, busyAfterWriteback,
    Bool.and_eq_true, Bool.not_eq_true'] at hr
  rw [inFlight_committed, Bool.or_eq_true]
  refine hr.imp_right fun ⟨hbusy, hretiring⟩ => ?_
  have hin := h r hbusy
  rwa [inFlight_eq hok, hretiring, Bool.or_false] at hin

/-! ### A cycle -/

theorem decodeStage_moved_q_length_le (q : List Instr) (s : State) :
    (decodeStage q (moved s)).q.length ≤ s.q.length := by
  obtain ⟨_, h⟩ | ⟨i, _, _, h⟩ := decodeStage_moved_cases q s
  · simp [h]
  · simp [h]

theorem inv_committed {s : State} (h : Inv s) (hok : noFaultNow s) (hrun : s.status = .run)
    (q : List Instr) : Inv (finishCycle (decodeStage q (moved s))) :=
  have hstatus : (finishCycle (decodeStage q (moved s))).status =
      if terminal (finishCycle (decodeStage q (moved s))) then .done else .run := by simp [hrun]
  { capacity := by
      rw [finishCycle_q]
      exact (decodeStage_moved_q_length_le q s).trans h.capacity
    memForm := by simpa using h.memForm
    aluClass := fun e he => by
      have hclass : s.db = some e ∧ e.instr.op.isLoad = false := by
        simpa [moved, Option.filter_eq_some_iff] using he
      exact hclass.2
    loadClass := fun e he => by
      have hclass : s.db = some e ∧ e.instr.op.isLoad = true := by
        simpa [moved, Option.filter_eq_some_iff] using he
      exact hclass.2
    busyInFlight := busyInFlight_committed hok h.busyInFlight q
    loadQuiet := fun hs => by rw [hstatus] at hs; split at hs <;> cases hs
    runLive := fun hs => by
      by_contra hterm
      rw [hstatus] at hs
      simp only [hterm, if_true] at hs
      cases hs
    doneTerminal := fun hs => by
      by_contra hterm
      rw [hstatus] at hs
      simp only [hterm] at hs
      cases hs
    faultRecorded := fun hs => by rw [hstatus] at hs; split at hs <;> cases hs
    faultClear := fun _ => by simpa using h.faultClear (by simp [hrun]) }

/-- R204: the fault registers record the out-of-range load that stays in `ADR`. -/
theorem inv_loadFault {s : State} {e : AddrEntry} (h : Inv s) (he : s.adr = some e)
    (hinvalid : addrValid e.addr = false) : Inv (faultEntry (loadAddrRange e) s) :=
  { capacity := h.capacity
    memForm := h.memForm
    aluClass := h.aluClass
    loadClass := h.loadClass
    busyInFlight := h.busyInFlight
    loadQuiet := fun hs => by cases hs
    runLive := fun hs => by cases hs
    doneTerminal := fun hs => by cases hs
    faultRecorded := fun _ => ⟨rfl, e, he, hinvalid, rfl⟩
    faultClear := fun hs => absurd rfl hs }

theorem inv_cycle {s : State} (h : Inv s) (hrun : s.status = .run) (q : List Instr) :
    Inv (cycle (decodeStage q) s) := by
  obtain ⟨hok, hc⟩ | ⟨e, he, hinvalid, hc⟩ | ⟨e, he, hload, _, _⟩ := cycle_cases (decodeStage q) s
  · exact hc ▸ inv_committed h hok hrun q
  · exact hc ▸ inv_loadFault h he hinvalid
  · exact absurd hload (by simp [h.aluClass e he])

/-- Settles O41: reset by the base case, the load operations by `inv_loadEdge`, a cycle by
`inv_cycle`, and an idle edge changes nothing the invariant reads. -/
theorem stepKeepsTheInvariant : Obligations.StepKeepsTheInvariant := by
  intro s t hinv ht
  have hdropped := inv_dropInput hinv
  obtain ⟨_, rfl⟩ | ⟨_, hload, rfl⟩ | ⟨_, hrun, rfl⟩ | ⟨_, _, rfl⟩ := step_cases ht
  · exact resetMeetsTheInvariant s.inputs.tail
  · exact inv_loadEdge hdropped hload _
  · exact inv_cycle hdropped hrun s.q
  · exact hdropped

/-! ### Reachable states -/

theorem inv_of_reachable {s : State} (h : Reachable s) : Inv s := by
  induction h with
  | reset inputs => exact resetMeetsTheInvariant inputs
  | edge _ ht ih => exact stepKeepsTheInvariant _ _ ih ht

/-- Settles O38: the ALU stage by its own definition; a reachable state has no fault code but 0 and
LOAD_ADDR_RANGE. -/
theorem aluBadOpcodeIsUnreachable : Obligations.AluBadOpcodeIsUnreachable := by
  refine ⟨fun s e he hop => ?_, fun s hs hcode => ?_⟩
  · simp [stageAlu, he, hop, alu, aluBadOpcode_of_load hop]
  · by_cases hfault : s.status = .fault
    · simp [((inv_of_reachable hs).faultRecorded hfault).1] at hcode
    · simp [((inv_of_reachable hs).faultClear hfault).1] at hcode

/-- Settles O39, by the invariant's two clauses on the fault registers. -/
theorem faultRegistersOfReachableStates : Obligations.FaultRegistersOfReachableStates := by
  intro s hs
  refine ⟨fun hfault => ?_, fun hok => ?_⟩
  · rw [((inv_of_reachable hs).faultRecorded hfault).1]; rfl
  · obtain ⟨hcode, hinfo⟩ := (inv_of_reachable hs).faultClear hok
    rw [hcode, hinfo]
    exact ⟨rfl, rfl⟩

/-- Settles O42, by the invariant's clauses on `AB` and `LB`. -/
theorem slotClassInvariant : Obligations.SlotClassInvariant := by
  intro s hs
  have hinv := inv_of_reachable hs
  refine ⟨fun e he hop => ?_, fun e he => (isLoad_iff _).mp (hinv.loadClass e he),
    stageWriteback_rsLd s, stageWriteback_rsAlu s⟩
  have hclass := hinv.aluClass e he
  rw [(isLoad_iff _).mpr hop] at hclass
  cases hclass

theorem inFlight_of_slotsEmpty {s : State} (h : slotsEmpty s) (r : RegIdx) :
    inFlight s r = false := by
  obtain ⟨hdb, hab, hlb, hadr, hld, halu⟩ := h
  simp [inFlight, inFlightPastDecode, Entry.names, AddrEntry.names, ResultEntry.names, *]

/-- With nothing in flight nothing is busy. -/
theorem not_busy_of_slotsEmpty {s : State} (hbusy : BusyInFlight s) (h : slotsEmpty s)
    (r : RegIdx) : isBusy s r = false := by
  by_contra hr
  have := hbusy r (by simpa using hr)
  simp [inFlight_of_slotsEmpty h] at this

/-- Settles O44: DONE is terminal, so nothing is in flight, so nothing is busy. -/
theorem doneStateIsDrained : Obligations.DoneStateIsDrained := by
  intro s hs hdone
  have hinv := inv_of_reachable hs
  obtain ⟨hq, hslots⟩ := (terminal_iff s).mp (hinv.doneTerminal hdone)
  exact ⟨hq, hslots, not_busy_of_slotsEmpty hinv.busyInFlight hslots⟩

/-- Settles O35: only `set_mem` writes memory, and only an edge in LOAD applies it. -/
theorem memoryUnchangedDuringRun : Obligations.MemoryUnchangedDuringRun := by
  intro s t hrst ht hcond
  obtain ⟨hr, _⟩ | ⟨_, hload, rfl⟩ | ⟨_, _, rfl⟩ | ⟨_, _, rfl⟩ := step_cases ht
  · simp [hrst] at hr
  · have hvalid : (nextInput s).memValid = false := hcond.resolve_left (absurd hload)
    unfold loadEdge
    split <;> simp [applyLoads_mem, hvalid]
  · obtain h | ⟨f, h⟩ := cycle_commits_or_faults (decodeStage s.q) (dropInput s) <;> simp [h]
  · simp

/-- Settles O27: the statuses before and after the edge pick the case of `emitted`; `start` finds
`cycle_count` at 0 by the invariant. -/
theorem snapshotsOfARun : Obligations.SnapshotsOfARun := by
  intro s t hs hrst ht
  have hcount := cycleCountCountsCommittedCycles.2 s t hrst ht
  refine ⟨fun hload hstart => ?_, fun hload hstart => ?_, fun hrun hok => ?_,
    fun hrun hfault => ?_, fun hidle => ?_⟩
  · have hzero : s.cycleCount = 0 := ((inv_of_reachable hs).loadQuiet hload).2
    have hlive : t.status = .done ∨ t.status = .run := by
      obtain rfl : loadEdge (nextInput s) (dropInput s) = t := by
        simpa [step_load hrst hload] using ht
      rw [loadEdge, if_pos hstart, startRun_status]
      split <;> simp
    refine ⟨t.snapshot, ?_, ?_, rfl⟩
    · rcases hlive with h | h <;> simp [emitted, hload, h]
    · exact (hcount.2.2 (by simp [hload])).trans hzero
  · have hstay : t.status = .load := by
      obtain rfl : loadEdge (nextInput s) (dropInput s) = t := by
        simpa [step_load hrst hload] using ht
      simp [loadEdge, hstart, hload]
    simp [emitted, hload, hstay]
  · obtain ⟨_, hlive⟩ := haltExactlyAtTerminal s t hrun hrst ht hok
    refine ⟨t.snapshot, ?_, ?_, rfl⟩
    · rcases hlive with h | h <;> simp [emitted, hrun, h]
    · obtain ⟨_, h⟩ | ⟨hfault, _⟩ := cycleCount_of_step_run hrst hrun ht
      · exact h
      · exact absurd hfault hok
  · simp [emitted, hrun, hfault]
  · rcases hidle with h | h <;> simp [emitted, h]

end Sys2Proof.Proofs
end

section
/-! PROOFS. The simultaneous form of the cycle (spec/40_pipeline.md R120), and that the two counters
have no part in the rest of the state (spec/10_state.md R36, R37). -/

namespace Sys2Proof.Proofs

open Sys2Proof Sys2Proof.Machine Sys2Proof.Laws

/-! ### The register file after writeback -/

theorem retire_rf (e : ResultEntry) (s : State) :
    (retire e s).rf = s.rf.set e.rd.val { value := e.value, busy := false } e.rd.isLt := by
  simp [retire, putBusy, writeReg]

theorem simRf1_eq (s : State) : simRf1 s = (stageWriteback s).rf := by
  rw [stageWriteback_rf]
  unfold simRf1 retireSlot
  cases s.rsLd <;> cases s.rsAlu <;> simp [retire_rf]

theorem simRf1_busy (s : State) (r : RegIdx) : (simRf1 s)[r].busy = busyAfterWriteback s r := by
  rw [simRf1_eq]
  exact isBusy_stageWriteback s r

/-! ### The committed state -/

/-- The simultaneous form accepts the head exactly when decode does. -/
theorem simAccepted_eq (s : State) :
    simAccepted s = s.q.head?.filter (fun i => sourcesFree i s) := by
  unfold simAccepted
  cases s.q with
  | nil => rfl
  | cons i rest =>
    simp only [simRf1_busy, List.head?_cons]
    simp [sourcesFree, Option.filter]

theorem simCounter_eq (c : Counter) :
    (if c.toNat = 2 ^ config.CW - 1 then c else c + 1) = satSucc c := by
  have hfull : c.toNat = 2 ^ config.CW - 1 ↔ c = BitVec.allOnes config.CW := by
    rw [← BitVec.toNat_allOnes, BitVec.toNat_inj]
  rw [satSucc, if_congr hfull rfl rfl]

/-- Reading every right-hand side off the start of the cycle gives what the stages give in order. -/
theorem simCommit_eq (s : State) :
    simCommit s =
      { decodeStage s.q (moved s) with cycleCount := satSucc s.cycleCount } := by
  unfold simCommit
  rw [simCounter_eq, ← moved_lb, ← moved_ab]
  obtain ⟨hstall, h⟩ | ⟨i, hq, hfree, h⟩ := decodeStage_moved_cases s.q s
  · have hnone : simAccepted s = none := by
      rw [simAccepted_eq, Option.filter_eq_none_iff]
      intro i hi
      simp [hstall i hi]
    rw [h, hnone, simRf1_eq]
    rfl
  · have hsome : simAccepted s = some i := by
      rw [simAccepted_eq, Option.filter_eq_some_iff]
      exact ⟨hq, hfree⟩
    rw [h, hsome, accepted, ← readReg_moved, ← readReg_moved, simRf1_eq]
    rfl

/-! ### The cycle -/

theorem terminal_iff_isTerminal (s : State) : terminal s = true ↔ isTerminal s := by
  rw [terminal_iff, isTerminal, slotsEmpty, List.length_eq_zero_iff]

theorem finishCycle_eq_simCommit {s : State} (hrun : s.status = .run) :
    finishCycle (decodeStage s.q (moved s)) =
      { simCommit s with status := if isTerminal (simCommit s) then .done else .run } := by
  have hterm : terminal (decodeStage s.q (moved s)) = true ↔ isTerminal (simCommit s) := by
    rw [terminal_iff_isTerminal, simCommit_eq]
  rw [finishCycle_eq, if_congr hterm rfl rfl, decodeStage_status, moved_status, hrun,
    decodeStage_cycleCount, moved_cycleCount]
  simp only [simCommit_eq]

theorem decide_inRange_eq_addrValid (a : Word) :
    decide (0 ≤ a.toInt ∧ a.toInt ≤ 7) = addrValid a := by
  rw [Bool.eq_iff_iff, decide_eq_true_iff, addrValid_iff_signed]

/-- The seven stages in order and the simultaneous next-state function agree, outcome by outcome. -/
theorem cycle_eq_simCycle {s : State} (hrun : s.status = .run) :
    cycle (decodeStage s.q) s = simCycle s := by
  unfold simCycle
  simp only [decide_inRange_eq_addrValid, ← isLoad_eq_beq_ld]
  obtain ⟨⟨hadr, hab⟩, h⟩ | ⟨e, he, hinvalid, h⟩ | ⟨e, he, hload, hadr, h⟩ :=
    cycle_cases (decodeStage s.q) s
  · have hadr' : s.adr.filter (fun e => !addrValid e.addr) = none :=
      Option.filter_eq_none_iff.mpr fun e he => by simp [hadr e he]
    have hab' : s.ab.filter (fun e => e.instr.op.isLoad) = none :=
      Option.filter_eq_none_iff.mpr fun e he => by simp [hab e he]
    rw [h, hadr', hab']
    exact finishCycle_eq_simCommit hrun
  · have hadr' : s.adr.filter (fun e => !addrValid e.addr) = some e :=
      Option.filter_eq_some_iff.mpr ⟨he, by simp [hinvalid]⟩
    rw [h, hadr']
    rfl
  · have hadr' : s.adr.filter (fun e => !addrValid e.addr) = none :=
      Option.filter_eq_none_iff.mpr fun l hl => by simp [hadr l hl]
    have hab' : s.ab.filter (fun e => e.instr.op.isLoad) = some e :=
      Option.filter_eq_some_iff.mpr ⟨he, hload⟩
    rw [h, hadr', hab', aluBadOpcode_of_load ((isLoad_iff _).mp hload)]
    rfl

/-- Settles O15: an edge in RUN is the cycle on the state with its inputs read off. -/
theorem sequentialEqualsSimultaneous : Obligations.SequentialEqualsSimultaneous := by
  intro s hrun hrst
  rw [step_run hrst hrun]
  exact congrArg _ (cycle_eq_simCycle (s := dropInput s) hrun)

/-! ### The counters -/

theorem moved_eraseCounters (s : State) : moved (eraseCounters s) = eraseCounters (moved s) := by
  have hrf : (stageWriteback (eraseCounters s)).rf = (stageWriteback s).rf := by
    rw [← simRf1_eq, ← simRf1_eq]
    rfl
  rw [moved, hrf]
  rfl

/-- Decode reads and writes neither counter. -/
theorem decodeStage_eraseCounters (q : List Instr) (s : State) :
    decodeStage q (eraseCounters s) = eraseCounters (decodeStage q s) := by
  unfold decodeStage
  cases q.head? with
  | none => rfl
  | some i =>
    have hsame : sourceBusy i (eraseCounters s) = sourceBusy i s := rfl
    simp only [Option.elim_some, decodeHead, hsame]
    split <;> rfl

/-- The end of a cycle counts, and that is all the counter is read for. -/
theorem finishCycle_eraseCounters (s : State) :
    eraseCounters (finishCycle (eraseCounters s)) = eraseCounters (finishCycle s) := by
  rw [finishCycle_eq, finishCycle_eq]
  rfl

theorem cycle_eraseCounters (q : List Instr) (s : State) :
    eraseCounters (cycle (decodeStage q) (eraseCounters s)) =
      eraseCounters (cycle (decodeStage q) s) := by
  obtain ⟨hok, h⟩ | ⟨e, he, hinvalid, h⟩ | ⟨e, he, hload, hadr, h⟩ := cycle_cases (decodeStage q) s
  · rw [h, cycle_of_noFault (s := eraseCounters s) _ hok, moved_eraseCounters,
      decodeStage_eraseCounters,
      finishCycle_eraseCounters]
  · rw [h, cycle_of_loadFault (s := eraseCounters s) _ he hinvalid]
    rfl
  · rw [h, cycle_of_aluFault (s := eraseCounters s) _ hadr he hload]
    rfl

theorem applyLoads_eraseCounters (p : PortsIn) (s : State) :
    eraseCounters (applyLoads p (eraseCounters s)) = eraseCounters (applyLoads p s) := by
  have hq : (pushInstr p.progWord (eraseCounters s)).q = (pushInstr p.progWord s).q := by
    cases hdec : decode p.progWord with
    | error e => rw [pushInstr_of_decode_error hdec, pushInstr_of_decode_error hdec]; rfl
    | ok i =>
      rw [pushInstr_of_decode hdec, pushInstr_of_decode hdec, pushQueue_eq, pushQueue_eq]
      rfl
  rw [applyLoads_eq, applyLoads_eq, hq]
  rfl

theorem loadEdge_eraseCounters (p : PortsIn) (s : State) :
    eraseCounters (loadEdge p (eraseCounters s)) = eraseCounters (loadEdge p s) := by
  have hstart : ∀ u, eraseCounters (startRun u) = startRun (eraseCounters u) := fun _ => rfl
  unfold loadEdge
  split
  · rw [hstart, hstart, applyLoads_eraseCounters]
  · exact applyLoads_eraseCounters p s

/-- An edge from `s` and one from `s` with its counters set aside end alike but for the counters. -/
theorem step_eraseCounters {s t : State} (ht : step s = .next t) :
    ∃ u, step (eraseCounters s) = .next u ∧ eraseCounters u = eraseCounters t := by
  have hdrop : dropInput (eraseCounters s) = eraseCounters (dropInput s) := rfl
  have hnext : nextInput (eraseCounters s) = nextInput s := rfl
  obtain ⟨hrst, rfl⟩ | ⟨hrst, hload, rfl⟩ | ⟨hrst, hrun, rfl⟩ | ⟨hrst, hidle, rfl⟩ := step_cases ht
  · exact ⟨_, step_reset (s := eraseCounters s) hrst, rfl⟩
  · refine ⟨_, step_load (s := eraseCounters s) hrst hload, ?_⟩
    rw [hdrop, hnext, loadEdge_eraseCounters]
  · refine ⟨_, step_run (s := eraseCounters s) hrst hrun, ?_⟩
    rw [hdrop]
    exact cycle_eraseCounters s.q (dropInput s)
  · exact ⟨_, step_done_or_fault (s := eraseCounters s) hrst hidle, rfl⟩

/-- Settles O45: both edges end, but for the counters, as the edge from the common state with its
counters set aside. -/
theorem countersAffectNothingElse : Obligations.CountersAffectNothingElse := by
  intro s s' t t' hss ht ht'
  obtain ⟨u, hu, hut⟩ := step_eraseCounters ht
  obtain ⟨u', hu', hut'⟩ := step_eraseCounters ht'
  obtain rfl : u = u' := by simpa [hss, hu'] using hu.symm
  exact hut.symm.trans hut'

end Sys2Proof.Proofs
end

section
/-! PROOFS. Any number of clock edges, and the state a loader builds from three text streams
(spec/70_reset_and_hazards.md R231 to R235). -/

namespace Sys2Proof.Proofs

open Sys2Proof Sys2Proof.Machine Sys2Proof.Laws

/-! ### Several edges -/

theorem steps_succ {n : Nat} {s t : State} (h : step s = .next t) :
    steps (n + 1) s = steps n t := by
  simp [steps, h]

theorem steps_add {m n : Nat} {s t : State} (h : steps m s = .next t) :
    steps (m + n) s = steps n t := by
  induction m generalizing s with
  | zero =>
    obtain rfl : s = t := by simpa [steps] using h
    rw [Nat.zero_add]
  | succ m ih =>
    obtain ⟨u, hu⟩ := everyEdgeHasOneSuccessor s
    rw [steps_succ hu] at h
    rw [Nat.succ_add, steps_succ hu, ih h]

/-! ### Edges in LOAD without `start` -/

/-- The load operations of one edge after another. -/
def loadAll (ps : List PortsIn) (s : State) : State := ps.foldl (fun u p => applyLoads p u) s

theorem loadAll_append (ps qs : List PortsIn) (s : State) :
    loadAll (ps ++ qs) s = loadAll qs (loadAll ps s) :=
  List.foldl_append

theorem pushInstr_with_inputs (w : InstrWord) (s : State) (l : List PortsIn) :
    pushInstr w { s with inputs := l } = { pushInstr w s with inputs := l } := by
  cases hdec : decode w with
  | error e => simp [pushInstr_of_decode_error hdec]
  | ok i => simp [pushInstr_of_decode hdec, pushQueue_eq]

/-- The load operations do not read the inputs still to come. -/
theorem applyLoads_with_inputs (p : PortsIn) (s : State) (l : List PortsIn) :
    applyLoads p { s with inputs := l } = { applyLoads p s with inputs := l } := by
  rw [applyLoads_eq, applyLoads_eq, pushInstr_with_inputs]
  rfl

/-- An edge that presents load operations and neither `rst` nor `start`. -/
def LoadsOnly (p : PortsIn) : Prop := p.rst = false ∧ p.start = false

theorem step_loadsOnly {s : State} {p : PortsIn} (hload : s.status = .load) (hp : LoadsOnly p)
    (rest : List PortsIn) :
    step { s with inputs := p :: rest } = .next { applyLoads p s with inputs := rest } := by
  have hedge : step { s with inputs := p :: rest } =
      .next (loadEdge p { s with inputs := rest }) :=
    step_load (s := { s with inputs := p :: rest }) hp.1 hload
  rw [hedge, loadEdge, hp.2, if_neg (by decide), applyLoads_with_inputs]

theorem steps_loadsOnly (rest : List PortsIn) :
    ∀ (ps : List PortsIn) {s : State}, s.status = .load → (∀ p ∈ ps, LoadsOnly p) →
      steps ps.length { s with inputs := ps ++ rest } =
        .next { loadAll ps s with inputs := rest }
  | [], _, _, _ => rfl
  | p :: ps, s, hload, hps => by
    have hfirst := step_loadsOnly hload (hps p (by simp)) (ps ++ rest)
    have hload' : (applyLoads p s).status = .load := by simpa using hload
    rw [List.length_cons, List.cons_append, steps_succ hfirst,
      steps_loadsOnly rest ps hload' fun q hq => hps q (by simp [hq])]
    rfl

/-! ### What the load operations leave alone -/

/-- What no step of a fold changes, the fold does not change. -/
theorem foldl_frame {α β σ : Type} {f : σ → α → σ} {g : σ → β} (h : ∀ u a, g (f u a) = g u) :
    ∀ (l : List α) (u : σ), g (l.foldl f u) = g u
  | [], _ => rfl
  | a :: l, u => (foldl_frame h l (f u a)).trans (h u a)

section LoadAllFrame

variable (ps : List PortsIn) (s : State)

theorem loadAll_status : (loadAll ps s).status = s.status :=
  foldl_frame (fun u p => applyLoads_status p u) ps s

theorem loadAll_cycleCount : (loadAll ps s).cycleCount = s.cycleCount :=
  foldl_frame (fun u p => applyLoads_cycleCount p u) ps s

theorem isBusy_loadAll (r : RegIdx) : isBusy (loadAll ps s) r = isBusy s r :=
  foldl_frame (g := fun u => isBusy u r) (fun u p => isBusy_applyLoads p u r) ps s

theorem slotsEmpty_loadAll (h : slotsEmpty s) : slotsEmpty (loadAll ps s) := by
  have hframe : slotsEmpty (loadAll ps s) = slotsEmpty s :=
    foldl_frame (g := slotsEmpty) (fun u p => by simp [slotsEmpty]) ps s
  rwa [hframe]

end LoadAllFrame

/-! ### The three streams as folds over their well-formed lines -/

/-- A stream's lines as edges (R79 to R82): none for a malformed line, and for a well-formed one a
single edge whose load operation is `apply` of what the line says. -/
structure Presents {α β : Type} (parse : α → Option β) (present : α → List PortsIn)
    (apply : State → β → State) : Prop where
  malformed : ∀ l, parse l = none → present l = []
  wellFormed : ∀ l b, parse l = some b →
    ∃ p, present l = [p] ∧ LoadsOnly p ∧ ∀ s, applyLoads p s = apply s b

section Presented

variable {α β : Type} {parse : α → Option β} {present : α → List PortsIn}
  {apply : State → β → State} (h : Presents parse present apply)
include h

theorem Presents.loadAll (ls : List α) (s : State) :
    loadAll (ls.flatMap present) s = (ls.filterMap parse).foldl apply s := by
  induction ls generalizing s with
  | nil => rfl
  | cons l ls ih =>
    rw [List.flatMap_cons, loadAll_append, ih]
    cases hl : parse l with
    | none => rw [h.malformed l hl, List.filterMap_cons_none hl]; rfl
    | some b =>
      obtain ⟨p, hp, _, happly⟩ := h.wellFormed l b hl
      rw [hp, List.filterMap_cons_some hl, List.foldl_cons, ← happly]
      rfl

theorem Presents.loadsOnly (ls : List α) : ∀ p ∈ ls.flatMap present, LoadsOnly p := by
  intro p hp
  obtain ⟨l, _, hp⟩ := List.mem_flatMap.mp hp
  cases hl : parse l with
  | none => simp [h.malformed l hl] at hp
  | some b =>
    obtain ⟨q, hq, hloads, _⟩ := h.wellFormed l b hl
    obtain rfl : p = q := by simpa [hq] using hp
    exact hloads

end Presented

theorem presents_progInputs :
    Presents ProgLine.instr? progInputs (fun u i => pushQueue i u) where
  malformed l hl := by simp [progInputs, hl]
  wellFormed l i hl := ⟨{ progValid := true, progWord := encode i },
    by simp [progInputs, hl], ⟨rfl, rfl⟩, fun s => pushInstr_of_decode (decode_encode i) s⟩

theorem presents_regInputs :
    Presents RegLine.init? regInputs (fun u c => writeReg u c.1 c.2) where
  malformed l hl := by simp [regInputs, hl]
  wellFormed l c hl := ⟨{ regValid := true, regIdx := c.1, regVal := c.2 },
    by simp [regInputs, hl], ⟨rfl, rfl⟩, fun _ => rfl⟩

theorem presents_memInputs :
    Presents MemLine.init? memInputs (fun u c => setMem c.1 c.2 u) where
  malformed l hl := by simp [memInputs, hl]
  wellFormed l c hl := ⟨{ memValid := true, memAddr := c.1, memVal := c.2 },
    by simp [memInputs, hl], ⟨rfl, rfl⟩, fun _ => rfl⟩

/-! ### The pushes: the first `QCAP` are queued, the others counted (R26, R27) -/

section Pushes

variable (is : List Instr) (s : State)

theorem foldl_pushQueue_rf : (is.foldl (fun u i => pushQueue i u) s).rf = s.rf :=
  foldl_frame (fun u i => by rw [pushQueue_eq]) is s

theorem foldl_pushQueue_mem : (is.foldl (fun u i => pushQueue i u) s).mem = s.mem :=
  foldl_frame (fun u i => by rw [pushQueue_eq]) is s

end Pushes

theorem foldl_pushQueue_q (is : List Instr) {s : State} (h : s.q.length ≤ config.QCAP) :
    (is.foldl (fun u i => pushQueue i u) s).q = (s.q ++ is).take config.QCAP := by
  induction is generalizing s with
  | nil => simpa using (List.take_of_length_le h).symm
  | cons i is ih =>
    rw [List.foldl_cons]
    by_cases hfull : s.q.length = config.QCAP
    · rw [pushQueue_of_full hfull, ih (by exact h), List.take_left' hfull, List.take_left' hfull]
    · rw [ih (pushQueue_q_length_le h i), pushQueue_of_room hfull, List.append_assoc,
        List.singleton_append]

theorem foldl_pushQueue_droppedCount (is : List Instr) {s : State}
    (h : s.q.length ≤ config.QCAP) :
    (is.foldl (fun u i => pushQueue i u) s).droppedCount.toNat =
      min (s.droppedCount.toNat + (s.q.length + is.length - config.QCAP))
        (2 ^ config.CW - 1) := by
  induction is generalizing s with
  | nil =>
    have hbound : s.droppedCount.toNat < 2 ^ config.CW := s.droppedCount.isLt
    rw [List.foldl_nil, List.length_nil, Nat.add_zero, Nat.sub_eq_zero_of_le h, Nat.add_zero,
      Nat.min_eq_left (Nat.le_sub_one_of_lt hbound)]
  | cons i is ih =>
    rw [List.foldl_cons]
    by_cases hfull : s.q.length = config.QCAP
    · have saturates : ∀ d n M : Nat, min (min (d + 1) M + n) M = min (d + (n + 1)) M := by omega
      rw [pushQueue_of_full hfull, ih (by exact h)]
      simp only [hfull, satSucc_toNat, List.length_cons, Nat.add_sub_cancel_left]
      exact saturates _ _ _
    · rw [ih (pushQueue_q_length_le h i), pushQueue_of_room hfull, List.length_append,
        List.length_singleton, List.length_cons, Nat.add_assoc, Nat.add_comm 1]

/-! ### Registers and memory: the last value written wins (R80, R81, R84) -/

/-- Under an invariant `P`, if one write at an index changes what is read there and nowhere else,
then after a list of writes each index reads as its last write, or as before if it has none. -/
theorem read_foldl_write {σ ι : Type} [DecidableEq ι] {P : σ → Prop} {write : σ → ι × Word → σ}
    {read : σ → ι → Word} (hkeep : ∀ u c, P u → P (write u c))
    (hread : ∀ u c r, P u → read (write u c) r = if r = c.1 then c.2 else read u r)
    (l : List (ι × Word)) {u : σ} (hu : P u) (r : ι) :
    read (l.foldl write u) r =
      ((l.reverse.find? fun c => c.1 == r).map Prod.snd).getD (read u r) := by
  induction l generalizing u with
  | nil => rfl
  | cons c l ih =>
    rw [List.foldl_cons, ih (hkeep u c hu), List.reverse_cons, List.find?_append]
    cases l.reverse.find? fun c => c.1 == r with
    | some c' => rfl
    | none =>
      rw [hread u c r hu]
      by_cases hr : r = c.1
      · simp [hr]
      · simp [hr, Ne.symm hr]

theorem readReg_foldl_writeReg (l : List (RegIdx × Word)) (s : State) (r : RegIdx) :
    readReg (l.foldl (fun u c => writeReg u c.1 c.2) s) r =
      ((l.reverse.find? fun c => c.1 == r).map Prod.snd).getD (readReg s r) :=
  read_foldl_write (P := fun _ => True) (fun _ _ _ => trivial)
    (fun u c r _ => readReg_writeReg u c.1 r c.2) l trivial r

theorem read_foldl_setMem (l : List (MemIdx × Word)) {s : State} (h : s.mem.wf) (a : MemIdx) :
    (l.foldl (fun u c => setMem c.1 c.2 u) s).mem.read a.val =
      ((l.reverse.find? fun c => c.1 == a).map Prod.snd).getD (s.mem.read a.val) :=
  read_foldl_write (P := fun u : State => u.mem.wf) (read := fun u (a : MemIdx) => u.mem.read a.val)
    (fun _ c hu => wf_write c.1.isLt hu)
    (fun u c r hu => by simp [read_write hu, Fin.ext_iff]) l h a

section MemoryAndRegisterFrame

variable (s : State)

theorem foldl_setMem_rf (l : List (MemIdx × Word)) :
    (l.foldl (fun u c => setMem c.1 c.2 u) s).rf = s.rf :=
  foldl_frame (fun u c => setMem_rf u c.1 c.2) l s

theorem foldl_setMem_q (l : List (MemIdx × Word)) :
    (l.foldl (fun u c => setMem c.1 c.2 u) s).q = s.q :=
  foldl_frame (fun u c => setMem_q u c.1 c.2) l s

theorem foldl_setMem_droppedCount (l : List (MemIdx × Word)) :
    (l.foldl (fun u c => setMem c.1 c.2 u) s).droppedCount = s.droppedCount :=
  foldl_frame (fun u c => setMem_droppedCount u c.1 c.2) l s

theorem foldl_writeReg_mem (l : List (RegIdx × Word)) :
    (l.foldl (fun u c => writeReg u c.1 c.2) s).mem = s.mem :=
  foldl_frame (fun u c => writeReg_mem u c.1 c.2) l s

theorem foldl_writeReg_q (l : List (RegIdx × Word)) :
    (l.foldl (fun u c => writeReg u c.1 c.2) s).q = s.q :=
  foldl_frame (fun u c => writeReg_q u c.1 c.2) l s

theorem foldl_writeReg_droppedCount (l : List (RegIdx × Word)) :
    (l.foldl (fun u c => writeReg u c.1 c.2) s).droppedCount = s.droppedCount :=
  foldl_frame (fun u c => writeReg_droppedCount u c.1 c.2) l s

end MemoryAndRegisterFrame

/-! ### The initial state of the run (R231) -/

section Loaded

variable (prog : List ProgLine) (regs : List RegLine) (mem : List MemLine)

/-- The inputs a loader presents before `start`. -/
def streamInputs : List PortsIn :=
  prog.flatMap progInputs ++ regs.flatMap regInputs ++ mem.flatMap memInputs

/-- Reset after the three streams, before `start`. -/
def loaded : State := loadAll (streamInputs prog regs mem) State.reset

theorem loaded_eq :
    loaded prog regs mem =
      (mem.filterMap MemLine.init?).foldl (fun u c => setMem c.1 c.2 u)
        ((regs.filterMap RegLine.init?).foldl (fun u c => writeReg u c.1 c.2)
          ((prog.filterMap ProgLine.instr?).foldl (fun u i => pushQueue i u) State.reset)) := by
  rw [loaded, streamInputs, loadAll_append, loadAll_append, presents_progInputs.loadAll,
    presents_regInputs.loadAll, presents_memInputs.loadAll]

theorem streamInputs_loadsOnly : ∀ p ∈ streamInputs prog regs mem, LoadsOnly p := by
  intro p hp
  rw [streamInputs, List.mem_append, List.mem_append] at hp
  rcases hp with (hp | hp) | hp
  · exact presents_progInputs.loadsOnly prog p hp
  · exact presents_regInputs.loadsOnly regs p hp
  · exact presents_memInputs.loadsOnly mem p hp

theorem loaded_q :
    (loaded prog regs mem).q = (prog.filterMap ProgLine.instr?).take config.QCAP := by
  rw [loaded_eq, foldl_setMem_q, foldl_writeReg_q, foldl_pushQueue_q _ (by decide)]
  rfl

theorem loaded_droppedCount :
    (loaded prog regs mem).droppedCount.toNat =
      min ((prog.filterMap ProgLine.instr?).length - config.QCAP) (2 ^ config.CW - 1) := by
  rw [loaded_eq, foldl_setMem_droppedCount, foldl_writeReg_droppedCount,
    foldl_pushQueue_droppedCount _ (by decide)]
  simp [State.reset]

theorem readReg_loaded (r : RegIdx) :
    readReg (loaded prog regs mem) r =
      (((regs.filterMap RegLine.init?).reverse.find? fun c => c.1 == r).map Prod.snd).getD 0 := by
  rw [loaded_eq, readReg_congr (foldl_setMem_rf _ _), readReg_foldl_writeReg,
    readReg_congr (foldl_pushQueue_rf _ _), readReg_reset]

theorem read_loaded (a : MemIdx) :
    (loaded prog regs mem).mem.read a.val =
      (((mem.filterMap MemLine.init?).reverse.find? fun c => c.1 == a).map Prod.snd).getD 0 := by
  have hmem : ((regs.filterMap RegLine.init?).foldl (fun u c => writeReg u c.1 c.2)
      ((prog.filterMap ProgLine.instr?).foldl (fun u i => pushQueue i u) State.reset)).mem =
        State.reset.mem := by rw [foldl_writeReg_mem, foldl_pushQueue_mem]
  rw [loaded_eq, read_foldl_setMem _ (hmem ▸ reset_mem_wf), hmem]
  rfl

/-- The streams lead to `loaded`, and `start` sets the status. -/
theorem steps_loaderInputs :
    steps (loaderInputs prog regs mem).length
        { State.reset with inputs := loaderInputs prog regs mem } =
      .next (startRun { loaded prog regs mem with inputs := [] }) := by
  have hload : (loaded prog regs mem).status = .load := loadAll_status _ _
  have hstart : step { loaded prog regs mem with inputs := [{ start := true }] } =
      .next (startRun { loaded prog regs mem with inputs := [] }) :=
    step_load (s := { loaded prog regs mem with inputs := [{ start := true }] }) rfl hload
  have hstreams := steps_loadsOnly [{ start := true }] (streamInputs prog regs mem)
    (s := State.reset) rfl (streamInputs_loadsOnly prog regs mem)
  rw [loaderInputs, List.length_append]
  refine (steps_add hstreams).trans ?_
  exact steps_succ hstart

end Loaded

/-- Settles O12: the streams are followed by `steps_loaderInputs`, and each element of the state
they build has its lemma above. -/
theorem loaderBuildsInitialState : Obligations.LoaderBuildsInitialState := by
  intro prog regs mem
  have hslots : slotsEmpty (loaded prog regs mem) :=
    slotsEmpty_loadAll _ _ ⟨rfl, rfl, rfl, rfl, rfl, rfl⟩
  have hterm : terminal { loaded prog regs mem with inputs := [] } = true ↔
      (loaded prog regs mem).q = [] :=
    (terminal_iff _).trans (and_iff_left hslots)
  refine ⟨_, steps_loaderInputs prog regs mem, loaded_q prog regs mem,
    loaded_droppedCount prog regs mem, readReg_loaded prog regs mem, read_loaded prog regs mem,
    fun r => ?_, hslots, loadAll_cycleCount _ _, ?_⟩
  · exact (isBusy_loadAll _ _ r).trans (isBusy_reset r)
  · rw [startRun_status, if_congr hterm rfl rfl]
    rfl

end Sys2Proof.Proofs
end

section
/-! PROOFS. An instruction followed from its decode to its writeback: the statements of
spec/41_alu.md R150 to R154, 42_load.md R170 to R173, 10_state.md R41(b) and
70_reset_and_hazards.md R244. -/

namespace Sys2Proof.Proofs

open Sys2Proof Sys2Proof.Machine Sys2Proof.Laws

/-! ### A cycle after which the run goes on -/

theorem terminal_of_q {s : State} {i : Instr} {rest : List Instr} (h : s.q = i :: rest) :
    terminal s = false := by
  simp [terminal, h]

theorem terminal_of_ab {s : State} {e : Entry} (h : s.ab = some e) : terminal s = false := by
  simp [terminal, h]

theorem terminal_of_rsLd {s : State} {e : ResultEntry} (h : s.rsLd = some e) :
    terminal s = false := by
  simp [terminal, h]

theorem terminal_of_rsAlu {s : State} {e : ResultEntry} (h : s.rsAlu = some e) :
    terminal s = false := by
  simp [terminal, h]

theorem proceeds_committed {s : State} (h : Proceeds s) (hlb : addressQuiet s)
    (hlive : terminal (finishCycle (decodeStage s.q (moved (dropInput s)))) = false) :
    Proceeds (finishCycle (decodeStage s.q (moved (dropInput s)))) :=
  { running := committed_status h.running hlive
    noReset := noReset_of_inputs_subset h.noReset (by simp [List.tail_subset])
    noFault := committed_noFaultNow hlb }

/-- R103: what the registers and busy flags are after a cycle without a fault. -/
theorem step_writes_back {s : State} (h : Proceeds s) :
    ∃ t, step s = .next t ∧ t.status ≠ .fault ∧
      (∀ r, readReg t r = regAfterWriteback s r) ∧
      ∀ r, isBusy t r = (Entry.names t.db r || busyAfterWriteback s r) := by
  refine ⟨_, step_of_proceeds h, ?_, fun r => by simp, fun r => ?_⟩
  · simp only [finishCycle_status, decodeStage_status, moved_status, dropInput_status, h.running]
    split <;> simp
  · rw [isBusy_finishCycle, finishCycle_db, isBusy_decodeStage_moved, busyAfterWriteback_dropInput]

/-- Decode, with the whole effect of O20's accepting clause. -/
theorem exec_accepts_and_proceeds {i : Instr} {s : State} (hrun : s.status = .run)
    (hin : noReset s) (hquiet : quietAhead s) (hfree : sourcesFree i s = true) :
    ∃ t, exec i s = .next t ∧ t.q = s.q.tail ∧
      t.db = some { instr := i, op1 := regAfterWriteback s i.rs,
                    op2 := regAfterWriteback s i.rt } ∧
      isBusy t i.rd = true ∧ Proceeds t ∧ addressQuiet t := by
  obtain ⟨t, hexec, hok, hlb, hdb⟩ := exec_of_sourcesFree hrun hin hquiet hfree
  obtain ⟨hacc, _, _⟩ := decodeAcceptsFreeHead s hquiet.1
  obtain ⟨u, hexec', hq, hbusy, _⟩ := hacc i hfree
  obtain rfl : t = u := Host.Outcome.next.inj (hexec.symm.trans hexec')
  exact ⟨t, hexec, hq, hdb, hbusy, hok, hlb⟩

/-! ### ADD, SUB, AND and OR (R150) -/

/-- Issue: an ALU-class instruction in `DB` enters `AB`, and leaves `LB` empty. -/
theorem step_of_alu_in_db {s : State} {e : Entry} (h : Proceeds s) (hlb : addressQuiet s)
    (hdb : s.db = some e) (hop : e.instr.op.isLoad = false) :
    ∃ t, step s = .next t ∧ Proceeds t ∧ t.ab = some e ∧ addressQuiet t := by
  have hissued : (finishCycle (decodeStage s.q (moved (dropInput s)))).ab = some e := by
    simp [moved, hdb, hop]
  have hempty : (finishCycle (decodeStage s.q (moved (dropInput s)))).lb = none := by
    simp [moved, hdb, hop]
  exact ⟨_, step_of_proceeds h, proceeds_committed h hlb (terminal_of_ab hissued), hissued,
    fun l hl => by rw [hempty] at hl; cases hl⟩

/-- The ALU stage: the instruction in `AB` leaves its value in `RS_ALU`. -/
theorem step_of_alu_in_ab {s : State} {e : Entry} {v : Word} (h : Proceeds s)
    (hlb : addressQuiet s) (hab : s.ab = some e) (hv : alu e.instr.op e.op1 e.op2 = some v) :
    ∃ t, step s = .next t ∧ Proceeds t ∧ t.rsAlu = some { rd := e.instr.rd, value := v } := by
  have hresult : (finishCycle (decodeStage s.q (moved (dropInput s)))).rsAlu =
      some { rd := e.instr.rd, value := v } := by
    simp [moved, hab, hv]
  exact ⟨_, step_of_proceeds h, proceeds_committed h hlb (terminal_of_rsAlu hresult), hresult⟩

theorem isLoad_of_alu {op : Opcode} {a b v : Word} (h : alu op a b = some v) :
    op.isLoad = false := by
  cases op <;> simp [alu, Opcode.isLoad] at h ⊢

/-- R150: an instruction whose word is laid out as rule R72 says, and for which `alu` gives `f`, has
the lifetime of an ALU-class instruction that computes `f`. -/
theorem aluLifetime_of_alu {op : BitVec 3} {mk : RegIdx → RegIdx → RegIdx → Instr}
    {f : Word → Word → Word}
    (hword : ∀ d a b, encode (mk d a b) = op ++ regBits d ++ regBits a ++ regBits b)
    (hrd : ∀ d a b, (mk d a b).rd = d) (hrs : ∀ d a b, (mk d a b).rs = a)
    (hrt : ∀ d a b, (mk d a b).rt = b)
    (halu : ∀ d a b x y, alu (mk d a b).op x y = some (f x y)) : AluLifetime op mk f := by
  refine ⟨hword, fun rd rs rt s hrun hin hquiet hfree => ?_⟩
  obtain ⟨t1, hexec, hq, hdb, hbusy, hok1, hlb1⟩ := exec_accepts_and_proceeds hrun hin hquiet hfree
  rw [hrs, hrt] at hdb
  rw [hrd] at hbusy
  have hvalue := halu rd rs rt (regAfterWriteback s rs) (regAfterWriteback s rt)
  obtain ⟨t2, hstep1, hok2, hab, hlb2⟩ := step_of_alu_in_db hok1 hlb1 hdb (isLoad_of_alu hvalue)
  obtain ⟨t3, hstep2, hok3, hres⟩ := step_of_alu_in_ab hok2 hlb2 hab hvalue
  rw [hrd] at hres
  obtain ⟨t4, hstep3, hlive, hread, hflag⟩ := step_writes_back hok3
  refine ⟨t1, t2, t3, t4, hexec, hq, hdb, hbusy, hstep1, hab.trans hdb.symm, hstep2, hres, hstep3,
    hlive, ?_, ?_⟩
  · rw [hread]
    exact regAfterWriteback_of_rsAlu hres
  · have hfreed : busyAfterWriteback t3 rd = false :=
      busyAfterWriteback_of_retiring (retiring_of_rsAlu hres)
    rw [hflag, hfreed, Bool.or_false]

/-- Settles O28, by the lifetime of an ALU-class instruction. -/
theorem addWritesSum : Obligations.AddWritesSum :=
  aluLifetime_of_alu (fun _ _ _ => rfl) (fun _ _ _ => rfl) (fun _ _ _ => rfl) (fun _ _ _ => rfl)
    fun _ _ _ _ _ => rfl

/-- Settles O29, by the lifetime of an ALU-class instruction. -/
theorem subWritesDifference : Obligations.SubWritesDifference :=
  aluLifetime_of_alu (fun _ _ _ => rfl) (fun _ _ _ => rfl) (fun _ _ _ => rfl) (fun _ _ _ => rfl)
    fun _ _ _ _ _ => rfl

/-- Settles O30, by the lifetime of an ALU-class instruction. -/
theorem andWritesBitwiseAnd : Obligations.AndWritesBitwiseAnd :=
  aluLifetime_of_alu (fun _ _ _ => rfl) (fun _ _ _ => rfl) (fun _ _ _ => rfl) (fun _ _ _ => rfl)
    fun _ _ _ _ _ => rfl

/-- Settles O31, by the lifetime of an ALU-class instruction. -/
theorem orWritesBitwiseOr : Obligations.OrWritesBitwiseOr :=
  aluLifetime_of_alu (fun _ _ _ => rfl) (fun _ _ _ => rfl) (fun _ _ _ => rfl) (fun _ _ _ => rfl)
    fun _ _ _ _ _ => rfl

/-! ### LD (R170-R173) -/

/-- Address calculation, for a load in range: the next cycle raises no fault either. -/
theorem step_of_quiet_load_in_lb {s : State} {e : Entry} (h : Proceeds s) (hlb : s.lb = some e)
    (hvalid : addrValid (ea e.op1 e.op2) = true) :
    ∃ t, step s = .next t ∧ Proceeds t ∧
      t.adr = some { rd := e.instr.rd, addr := ea e.op1 e.op2 } := by
  have hquiet : addressQuiet s := fun l hl => by
    obtain rfl : e = l := by simpa [hlb] using hl
    exact hvalid
  have hformed := committed_adr (s := dropInput s) (q := s.q) hlb
  exact ⟨_, step_of_proceeds h, proceeds_committed h hquiet (terminal_of_adr hformed), hformed⟩

/-- The load stage: the word at the address in `ADR` enters `RS_LD`. The next cycle can fault on
`ADR` only. -/
theorem step_of_load_in_adr {s : State} {e : AddrEntry} (h : Proceeds s) (hadr : s.adr = some e) :
    ∃ t, step s = .next t ∧ t.rsLd = some { rd := e.rd, value := memRead s e.addr } ∧
      ((∀ a, t.adr = some a → addrValid a.addr = true) → Proceeds t) := by
  have hresult : (finishCycle (decodeStage s.q (moved (dropInput s)))).rsLd =
      some { rd := e.rd, value := memRead s e.addr } := by
    simp [moved, hadr, memRead]
  refine ⟨_, step_of_proceeds h, hresult, fun hvalid => proceeds_committed h (fun l hl => ?_)
    (terminal_of_rsLd hresult)⟩
  exact hvalid { rd := l.instr.rd, addr := ea l.op1 l.op2 }
    (committed_adr (s := dropInput s) (q := s.q) hl)

theorem mem_of_step {s t : State} (h : Proceeds s) (ht : step s = .next t) : t.mem = s.mem :=
  memoryUnchangedDuringRun s t (rst_of_noReset h.noReset) ht (.inl (by simp [h.running]))

theorem mem_of_exec {i : Instr} {s t : State} (hrun : s.status = .run) (ht : exec i s = .next t) :
    t.mem = s.mem := by
  obtain ⟨u, hu, hmem, _⟩ := instructionFrame i s hrun
  obtain rfl : u = t := Host.Outcome.next.inj (hu.symm.trans ht)
  exact hmem

/-- R104: with a result in the load slot, its register is left at that result, or at that of the
ALU slot when both name it. -/
theorem regAfterWriteback_of_both {s : State} {l : ResultEntry} (h : s.rsLd = some l) :
    regAfterWriteback s l.rd = (match s.rsAlu with
      | some e => if e.rd = l.rd then e.value else l.value
      | none => l.value) := by
  cases ha : s.rsAlu with
  | none => simp [regAfterWriteback, h, ha]
  | some a => simp [regAfterWriteback, h, ha]

/-- Settles O32: the load is followed through `DB`, `LB`, `ADR` and `RS_LD`, over a memory that no
cycle changes. -/
theorem ldWritesMemoryWord : Obligations.LdWritesMemoryWord := by
  intro rd rs rt s hrun hin hquiet hfree hvalid
  obtain ⟨t1, hexec, hq, hdb, hbusy, hok1, hlb1⟩ := exec_accepts_and_proceeds hrun hin hquiet hfree
  obtain ⟨t2, hstep1, hok2, hlb⟩ := step_of_load_in_db hok1 hlb1 hdb rfl
  obtain ⟨t3, hstep2, hok3, hadr⟩ := step_of_quiet_load_in_lb hok2 hlb hvalid
  obtain ⟨t4, hstep3, hres, hok4⟩ := step_of_load_in_adr hok3 hadr
  have hmem : t3.mem = s.mem := by
    rw [mem_of_step hok2 hstep2, mem_of_step hok1 hstep1, mem_of_exec hrun hexec]
  rw [memRead, hmem] at hres
  refine ⟨t1, t2, t3, t4, hexec, hq, hdb, hbusy, hstep1, hlb.trans hdb.symm, hstep2, hadr, hstep3,
    hres, fun hadr4 => ?_⟩
  obtain ⟨t5, hstep4, hlive, hread, hflag⟩ := step_writes_back (hok4 hadr4)
  have hfreed : busyAfterWriteback t4 rd = false :=
    busyAfterWriteback_of_retiring (retiring_of_rsLd hres)
  refine ⟨t5, hstep4, hlive, ?_, ?_⟩
  · rw [hread]
    exact regAfterWriteback_of_both hres
  · rw [hflag, hfreed, Bool.or_false]

/-! ### A writer keeps its register busy (R41(b)) -/

theorem inputs_of_step {s t : State} (ht : step s = .next t) : t.inputs = s.inputs.tail := by
  obtain ⟨_, rfl⟩ | ⟨_, _, rfl⟩ | ⟨_, _, rfl⟩ | ⟨_, _, rfl⟩ := step_cases ht
  · rfl
  · unfold loadEdge
    split <;> simp
  · obtain h | ⟨f, h⟩ := cycle_commits_or_faults (decodeStage s.q) (dropInput s) <;> simp [h]
  · rfl

theorem noReset_of_step {s t : State} (h : noReset s) (ht : step s = .next t) : noReset t :=
  noReset_of_inputs_subset h (inputs_of_step ht ▸ List.tail_subset _)

/-- Only a result that retires clears a busy flag. -/
theorem busy_of_step {s t : State} {r : RegIdx} (hrst : (nextInput s).rst = false)
    (ht : step s = .next t) (hbusy : isBusy s r = true) (hkeep : retiring s r = false) :
    isBusy t r = true := by
  obtain ⟨hr, _⟩ | ⟨_, _, rfl⟩ | ⟨_, _, rfl⟩ | ⟨_, _, rfl⟩ := step_cases ht
  · simp [hrst] at hr
  · have hloads : isBusy (applyLoads (nextInput s) (dropInput s)) r = true := by
      rw [isBusy_applyLoads]; exact hbusy
    unfold loadEdge
    split
    · exact hloads
    · exact hloads
  · obtain h | ⟨f, h⟩ := cycle_commits_or_faults (decodeStage s.q) (dropInput s)
    · rw [h, isBusy_finishCycle, isBusy_decodeStage_moved, busyAfterWriteback_dropInput,
        busyAfterWriteback_of_not_retiring hkeep, hbusy, Bool.or_true]
    · rw [h]; exact hbusy
  · exact hbusy

theorem busy_of_steps {r : RegIdx} {t : State} :
    ∀ (n : Nat) {s : State}, noReset s → isBusy s r = true → steps n s = .next t →
      (∀ m < n, ∀ u, steps m s = .next u → retiring u r = false) → isBusy t r = true
  | 0, s, _, hbusy, ht, _ => by
    obtain rfl : s = t := by simpa [steps] using ht
    exact hbusy
  | n + 1, s, hin, hbusy, ht, hkeep => by
    obtain ⟨u, hu⟩ := everyEdgeHasOneSuccessor s
    rw [steps_succ hu] at ht
    have hbusy' := busy_of_step (rst_of_noReset hin) hu hbusy (hkeep 0 (by omega) s rfl)
    exact busy_of_steps n (noReset_of_step hin hu) hbusy' ht fun m hm v hv =>
      hkeep (m + 1) (by omega) v (by rw [steps_succ hu, hv])

/-- Settles O43: the first part by the invariant, the second by following the flag that decode set
edge by edge. -/
theorem busyTracksWritersInFlight : Obligations.BusyTracksWritersInFlight := by
  refine ⟨fun s hs => (inv_of_reachable hs).busyInFlight,
    fun n i s t1 t hrun hin hok hfree hexec ht hkeep => ?_⟩
  obtain ⟨hacc, _, _⟩ := decodeAcceptsFreeHead s hok
  obtain ⟨u, hu, _, hbusy, _⟩ := hacc i hfree
  obtain rfl : u = t1 := Host.Outcome.next.inj (hu.symm.trans hexec)
  obtain ⟨u', hu', _, _, _, hinputs, _⟩ := instructionFrame i s hrun
  obtain rfl : u = u' := Host.Outcome.next.inj (hu.symm.trans hu')
  exact busy_of_steps n (noReset_of_inputs_subset hin (by rw [hinputs]; exact List.Subset.refl _))
    hbusy ht hkeep

/-! ### How long a reader waits (R244) -/

/-- The state after a cycle in which decode does nothing. -/
def stalled (s : State) : State := finishCycle (moved (dropInput s))

theorem stalled_ab (s : State) : (stalled s).ab = s.db.filter fun e => !e.instr.op.isLoad := by
  simp [stalled, moved]

theorem stalled_lb (s : State) : (stalled s).lb = s.db.filter fun e => e.instr.op.isLoad := by
  simp [stalled, moved]

theorem stalled_db (s : State) : (stalled s).db = none := by
  simp [stalled]

/-- The head `h` waits for `r` alone: `r` is busy and a source of `h`, its other source is free. -/
structure Waiting (h : Instr) (rest : List Instr) (r : RegIdx) (s : State) : Prop where
  proceeds : Proceeds s
  queue : s.q = h :: rest
  busy : isBusy s r = true
  reads : h.rs = r ∨ h.rt = r
  otherRs : h.rs ≠ r → isBusy s h.rs = false
  otherRt : h.rt ≠ r → isBusy s h.rt = false

section WaitingForWriter

variable {h : Instr} {rest : List Instr} {r : RegIdx} {s : State} (hw : Waiting h rest r s)
include hw

theorem not_sourcesFree_of_waiting (hret : retiring s r = false) : sourcesFree h s = false := by
  have hbusy : busyAfterWriteback s r = true := by
    rw [busyAfterWriteback_of_not_retiring hret, hw.busy]
  rcases hw.reads with hsrc | hsrc <;> simp [sourcesFree, hsrc, hbusy]

theorem sourcesFree_of_waiting (hret : retiring s r = true) : sourcesFree h s = true := by
  have hfree : busyAfterWriteback s r = false := busyAfterWriteback_of_retiring hret
  have hrs : busyAfterWriteback s h.rs = false := by
    by_cases hsrc : h.rs = r
    · rw [hsrc, hfree]
    · simp [busyAfterWriteback, hw.otherRs hsrc]
  have hrt : busyAfterWriteback s h.rt = false := by
    by_cases hsrc : h.rt = r
    · rw [hsrc, hfree]
    · simp [busyAfterWriteback, hw.otherRt hsrc]
  simp [sourcesFree, hrs, hrt]

/-- While the result for `r` does not retire the head stays where it is, and still waits. -/
theorem step_of_waiting (hlb : addressQuiet s) (hret : retiring s r = false) :
    step s = .next (stalled s) ∧ Waiting h rest r (stalled s) := by
  have hbusy : sourcesFree h s = false := not_sourcesFree_of_waiting hw hret
  have hidle : decodeStage s.q (moved (dropInput s)) = moved (dropInput s) :=
    decodeStage_moved_stall fun i hi => by
      obtain rfl : h = i := by simpa [hw.queue] using hi
      exact hbusy
  have hstalled : finishCycle (decodeStage s.q (moved (dropInput s))) = stalled s := by
    rw [hidle, stalled]
  have hq : (stalled s).q = h :: rest := by simp [stalled, hw.queue]
  have hflag : ∀ r', isBusy (stalled s) r' = busyAfterWriteback s r' := fun r' => by simp [stalled]
  refine ⟨hstalled ▸ step_of_proceeds hw.proceeds, ?_, hq, ?_, hw.reads, fun hsrc => ?_,
    fun hsrc => ?_⟩
  · exact hstalled ▸ proceeds_committed hw.proceeds hlb (hstalled ▸ terminal_of_q hq)
  · rw [hflag, busyAfterWriteback_of_not_retiring hret, hw.busy]
  · simp [hflag, busyAfterWriteback, hw.otherRs hsrc]
  · simp [hflag, busyAfterWriteback, hw.otherRt hsrc]

/-- In the cycle in which the result for `r` retires the head is accepted. -/
theorem step_of_waiting_retiring (hret : retiring s r = true) :
    ∃ t e, step s = .next t ∧ t.q = rest ∧ t.db = some e ∧ e.instr = h := by
  have hfree : sourcesFree h s = true := sourcesFree_of_waiting hw hret
  have hstage : decodeStage s.q (moved (dropInput s)) = accepted h (dropInput s) := by
    simp [decodeStage, hw.queue, decodeHead_moved_accept (s := dropInput s) hfree, accepted]
  exact ⟨_, _, step_of_proceeds hw.proceeds, by rw [finishCycle_q, hstage]; simp [hw.queue],
    by rw [finishCycle_db, hstage, accepted_db], rfl⟩

end WaitingForWriter

/-- The result for `r` retires in the cycle after `n` stalled ones, none of which faults. -/
def RetiresAfter (r : RegIdx) : Nat → State → Prop
  | 0, s => retiring s r = true
  | n + 1, s => retiring s r = false ∧ addressQuiet s ∧ RetiresAfter r n (stalled s)

/-- A head that waits for `r` stalls for as long, and is accepted in the cycle after. -/
theorem stalls_until_retired {h : Instr} {rest : List Instr} {r : RegIdx} :
    ∀ (n : Nat) {s : State}, Waiting h rest r s → RetiresAfter r n s →
      (∀ k, 1 ≤ k → k ≤ n → ∃ u, steps k s = .next u ∧ u.q = h :: rest ∧ u.db = none) ∧
      ∃ u e, steps (n + 1) s = .next u ∧ u.q = rest ∧ u.db = some e ∧ e.instr = h
  | 0, s, hw, hret => by
    obtain ⟨t, e, ht, hq, hdb, hi⟩ := step_of_waiting_retiring hw hret
    exact ⟨fun k h1 h0 => by omega, t, e, steps_succ ht, hq, hdb, hi⟩
  | n + 1, s, hw, ⟨hret, hlb, hafter⟩ => by
    obtain ⟨hstep, hw'⟩ := step_of_waiting hw hlb hret
    obtain ⟨hstall, u, e, hu, hacc⟩ := stalls_until_retired n hw' hafter
    refine ⟨fun k h1 hk => ?_, u, e, by rw [steps_succ hstep, hu], hacc⟩
    obtain ⟨k, rfl⟩ : ∃ m, k = m + 1 := ⟨k - 1, by omega⟩
    rw [steps_succ hstep]
    cases k with
    | zero => exact ⟨_, rfl, hw'.queue, stalled_db s⟩
    | succ k => exact hstall (k + 1) (by omega) (by omega)

/-! Where the writer of `r` is after a stalled cycle. -/

theorem noFaultNow_stalled {s : State} (hlb : addressQuiet s) : noFaultNow (stalled s) :=
  committed_noFaultNow (s := dropInput s) (q := []) hlb

theorem addressQuiet_stalled {s : State}
    (hdb : ∀ e, s.db = some e → e.instr.op.isLoad = true → addrValid (ea e.op1 e.op2) = true) :
    addressQuiet (stalled s) :=
  committed_addressQuiet (s := dropInput s) (q := []) hdb

theorem retiring_stalled {s : State} (hok : noFaultNow s) (r : RegIdx) :
    retiring (stalled s) r = (AddrEntry.names s.adr r || Entry.names s.ab r) := by
  have hld : ResultEntry.names (stalled s).rsLd r = AddrEntry.names s.adr r := by
    rw [resultNames_eq, addrNames_eq]
    exact congrArg (· == some r) ((congrArg _ (finishCycle_rsLd _)).trans
      (moved_rsLd_rd (dropInput s)))
  have halu : ResultEntry.names (stalled s).rsAlu r = Entry.names s.ab r := by
    rw [resultNames_eq, entryNames_eq]
    exact congrArg (· == some r) ((congrArg _ (finishCycle_rsAlu _)).trans
      (moved_rsAlu_rd (s := dropInput s) hok))
  rw [retiring, hld, halu]

theorem addrNames_stalled (s : State) (r : RegIdx) :
    AddrEntry.names (stalled s).adr r = Entry.names s.lb r := by
  rw [addrNames_eq, entryNames_eq]
  exact congrArg (· == some r) ((congrArg _ (finishCycle_adr _)).trans
    (moved_adr_rd (dropInput s)))

section OnlyWriter

variable {r : RegIdx} {s : State} {e : Entry} (hok : noFaultNow s) (hlb : addressQuiet s)
  (honly : inFlightPastDecode s r = false) (hdb : s.db = some e) (hrd : e.instr.rd = r)
include hok hlb honly hdb hrd

/-- An ALU-class writer in `DB`, the only one of its register, retires after two more cycles. -/
theorem retiresAfter_two_of_alu (hop : e.instr.op.isLoad = false) : RetiresAfter r 2 s := by
  simp only [inFlightPastDecode, Bool.or_eq_false_iff] at honly
  obtain ⟨⟨⟨⟨hab, _⟩, hadr⟩, hld⟩, halu⟩ := honly
  have hab1 : (stalled s).ab = some e := by simp [stalled_ab, hdb, hop]
  have hok1 := noFaultNow_stalled hlb
  refine ⟨by simp [retiring, hld, halu], hlb, ?_, addressQuiet_stalled fun d hd hload => ?_, ?_⟩
  · simp [retiring_stalled hok, hadr, hab]
  · obtain rfl : e = d := by simpa [hdb] using hd
    simp [hop] at hload
  · simp [RetiresAfter, retiring_stalled hok1, Entry.names, hab1, hrd]

/-- An LD in `DB` with its address in range, the only writer of its register, retires after three
more cycles. -/
theorem retiresAfter_three_of_load (hop : e.instr.op.isLoad = true)
    (hvalid : addrValid (ea e.op1 e.op2) = true) : RetiresAfter r 3 s := by
  simp only [inFlightPastDecode, Bool.or_eq_false_iff] at honly
  obtain ⟨⟨⟨⟨hab, hlbr⟩, hadr⟩, hld⟩, halu⟩ := honly
  have hlb1 : (stalled s).lb = some e := by simp [stalled_lb, hdb, hop]
  have hab1 : (stalled s).ab = none := by simp [stalled_ab, hdb, hop]
  have hquiet1 : addressQuiet (stalled s) := addressQuiet_stalled fun d hd _ => by
    obtain rfl : e = d := by simpa [hdb] using hd
    exact hvalid
  have hquiet2 : addressQuiet (stalled (stalled s)) := addressQuiet_stalled fun d hd => by
    simp [stalled_db] at hd
  have hok1 := noFaultNow_stalled hlb
  have hok2 := noFaultNow_stalled hquiet1
  refine ⟨by simp [retiring, hld, halu], hlb, ?_, hquiet1, ?_, hquiet2, ?_⟩
  · simp [retiring_stalled hok, hadr, hab]
  · rw [retiring_stalled hok1, addrNames_stalled, hlbr, hab1]
    rfl
  · simp [RetiresAfter, retiring_stalled hok2, addrNames_stalled, hlb1, Entry.names, hrd]

end OnlyWriter

/-- Settles O46: the reader waits for exactly as long as its writer takes from `DB` to a result
slot. -/
theorem stallDistance : Obligations.StallDistance := by
  intro i h rest s t1 hrun hin hquiet hfree haddr hexec hq honly hreads hrs hrt
  obtain ⟨t, ht, _, hdb, hbusy, hok, hlb⟩ := exec_accepts_and_proceeds hrun hin hquiet hfree
  obtain rfl : t = t1 := Host.Outcome.next.inj (ht.symm.trans hexec)
  have hw : Waiting h rest i.rd t := ⟨hok, hq, hbusy, hreads, hrs, hrt⟩
  by_cases hop : i.op = .ld
  · simp only [hop, if_true]
    exact stalls_until_retired 3 hw (retiresAfter_three_of_load hok.noFault hlb honly hdb rfl
      ((isLoad_iff _).mpr hop) (haddr hop))
  · simp only [hop, if_false]
    exact stalls_until_retired 2 hw (retiresAfter_two_of_alu hok.noFault hlb honly hdb rfl
      (Bool.eq_false_iff.mpr (mt (isLoad_iff _).mp hop)))

end Sys2Proof.Proofs
end

section
/-! PROOFS. How many cycles a run takes: the statements of spec/70_reset_and_hazards.md R245. -/

namespace Sys2Proof.Proofs

open Sys2Proof Sys2Proof.Machine Sys2Proof.Laws

/-! ### How many cycles the slots need to drain -/

/-- What an occupied slot contributes: the cycles its occupant still takes, `n`. -/
def slotDrain {α : Type} (o : Option α) (n : Nat) : Nat := if o.isSome then n else 0

/-- The cycles the entry in `DB` still takes: an LD four, any other three (R150, R170). -/
def decodedDrain (o : Option Entry) : Nat :=
  o.elim 0 fun e => if e.instr.op.isLoad then 4 else 3

/-- The cycles until every slot is empty, if nothing more is decoded. -/
def drainTime (s : State) : Nat :=
  max (decodedDrain s.db) <| max (slotDrain s.lb 3) <| max (slotDrain s.ab 2) <|
    max (slotDrain s.adr 2) <| max (slotDrain s.rsLd 1) (slotDrain s.rsAlu 1)

theorem slotDrain_eq_zero {α : Type} (o : Option α) (n : Nat) :
    slotDrain o (n + 1) = 0 ↔ o = none := by
  cases o <;> simp [slotDrain]

/-- A slot filled from the one before it needs a cycle less. -/
theorem slotDrain_eq_sub_one {α β : Type} {o : Option α} {o' : Option β}
    (h : o'.isSome = o.isSome) (n : Nat) : slotDrain o' n = slotDrain o (n + 1) - 1 := by
  unfold slotDrain
  rw [h]
  split <;> rfl

theorem decodedDrain_le_four (o : Option Entry) : decodedDrain o ≤ 4 := by
  cases o with
  | none => exact Nat.zero_le _
  | some e => cases hop : e.instr.op.isLoad <;> simp [decodedDrain, hop]

theorem three_le_decodedDrain (e : Entry) : 3 ≤ decodedDrain (some e) := by
  cases hop : e.instr.op.isLoad <;> simp [decodedDrain, hop]

theorem decodedDrain_eq_zero (o : Option Entry) : decodedDrain o = 0 ↔ o = none := by
  cases o with
  | none => exact iff_of_true rfl rfl
  | some e => exact iff_of_false (by have := three_le_decodedDrain e; omega) (by simp)

theorem drainTime_eq_zero (s : State) : drainTime s = 0 ↔ slotsEmpty s := by
  simp only [drainTime, slotsEmpty, Nat.max_eq_zero_iff, decodedDrain_eq_zero, slotDrain_eq_zero]
  tauto

theorem terminal_iff_drained (s : State) : terminal s = true ↔ s.q = [] ∧ drainTime s = 0 := by
  rw [drainTime_eq_zero]
  exact terminal_iff s

theorem drainTime_le_four (s : State) : drainTime s ≤ 4 := by
  have slot_le : ∀ {α : Type} (o : Option α) (n : Nat), slotDrain o n ≤ n := fun o n => by
    unfold slotDrain; split <;> omega
  have := decodedDrain_le_four s.db
  have := slot_le s.lb 3
  have := slot_le s.ab 2
  have := slot_le s.adr 2
  have := slot_le s.rsLd 1
  have := slot_le s.rsAlu 1
  unfold drainTime
  omega

@[simp] theorem drainTime_dropInput (s : State) : drainTime (dropInput s) = drainTime s := rfl

@[simp] theorem drainTime_finishCycle (s : State) : drainTime (finishCycle s) = drainTime s := by
  simp [drainTime]

/-- Issue takes one cycle off the entry in `DB`. -/
theorem drain_issued (s : State) :
    max (slotDrain (moved s).lb 3) (slotDrain (moved s).ab 2) = decodedDrain s.db - 1 := by
  cases hdb : s.db with
  | none => simp [moved, hdb, slotDrain, decodedDrain]
  | some e => cases hop : e.instr.op.isLoad <;> simp [moved, hdb, hop, slotDrain, decodedDrain]

/-- R102: the stages before decode take one cycle off what is in flight. -/
theorem drainTime_moved {s : State} (hok : noFaultNow s) :
    drainTime (moved s) = drainTime s - 1 := by
  have hadr : slotDrain (moved s).adr 2 = slotDrain s.lb 3 - 1 :=
    slotDrain_eq_sub_one (by simp [moved]) 2
  have hld : slotDrain (moved s).rsLd 1 = slotDrain s.adr 2 - 1 :=
    slotDrain_eq_sub_one (by simp [moved]) 1
  have halu : slotDrain (moved s).rsAlu 1 = slotDrain s.ab 2 - 1 :=
    slotDrain_eq_sub_one (by simpa using congrArg Option.isSome (moved_rsAlu_rd hok)) 1
  have hresult : ∀ o : Option ResultEntry, slotDrain o 1 - 1 = 0 := fun o => by
    cases o <;> rfl
  have hdb : decodedDrain (moved s).db = 0 := rfl
  unfold drainTime
  simp only [← Nat.sub_max_sub_right, hresult, hdb, hadr, hld, halu, ← drain_issued, Nat.zero_max,
    Nat.max_zero]
  ac_rfl

/-- A decoded instruction is in flight beside those before it. -/
theorem drainTime_accepted (i : Instr) (s : State) :
    drainTime (accepted i s) = max (decodedDrain (accepted i s).db) (drainTime (moved s)) := by
  have hslots : ∀ d, drainTime { moved s with db := d } =
      max (decodedDrain d) (drainTime (moved s)) := fun d => by
    have hdb : decodedDrain (moved s).db = 0 := rfl
    simp only [drainTime, hdb, Nat.zero_max]
  exact hslots _

/-- A head that stalls waits for something that is still in flight after writeback. -/
theorem drainTime_moved_pos_of_stall {s : State} (hok : noFaultNow s) (hbusy : BusyInFlight s)
    {i : Instr} (hstall : sourcesFree i s = false) : 0 < drainTime (moved s) := by
  have hsource : ∃ r, busyAfterWriteback s r = true := by
    cases hrs : busyAfterWriteback s i.rs with
    | true => exact ⟨_, hrs⟩
    | false => exact ⟨i.rt, by simpa [sourcesFree, hrs] using hstall⟩
  obtain ⟨r, hr⟩ := hsource
  rw [busyAfterWriteback, Bool.and_eq_true, Bool.not_eq_true'] at hr
  obtain ⟨hr, hkeep⟩ := hr
  have hpast : inFlightPastDecode (moved s) r = true := by
    have hin := hbusy r hr
    rwa [inFlight_eq hok, hkeep, Bool.or_false] at hin
  rw [Nat.pos_iff_ne_zero, Ne, drainTime_eq_zero]
  intro hempty
  have hnone := inFlight_of_slotsEmpty hempty r
  rw [inFlight, hpast, Bool.or_true] at hnone
  cases hnone

/-! ### Bounds on the cycles still to come -/

/-- At most this many cycles are still to come in RUN: four for each instruction in the queue, and
those that drain the slots. -/
def cyclesAtMost (s : State) : Nat := 4 * s.q.length + max (drainTime s) 1

/-- At least this many, if the run ends in DONE: one for each instruction in the queue and three
more for the last of them. -/
def cyclesAtLeast (s : State) : Nat := if s.q = [] then drainTime s else s.q.length + 3

@[simp] theorem cyclesAtMost_finishCycle (s : State) :
    cyclesAtMost (finishCycle s) = cyclesAtMost s := by
  rw [cyclesAtMost, finishCycle_q, drainTime_finishCycle, cyclesAtMost]

@[simp] theorem cyclesAtLeast_finishCycle (s : State) :
    cyclesAtLeast (finishCycle s) = cyclesAtLeast s := by
  rw [cyclesAtLeast, finishCycle_q, drainTime_finishCycle, cyclesAtLeast]

theorem cyclesAtLeast_of_terminal {s : State} (h : terminal s = true) : cyclesAtLeast s = 0 := by
  obtain ⟨hq, hdrain⟩ := (terminal_iff_drained s).mp h
  rw [cyclesAtLeast, if_pos hq, hdrain]

/-- A committed cycle takes off one cycle of each bound, unless it ends the run. -/
theorem bounds_of_committed {s : State} (hok : noFaultNow s) (hbusy : BusyInFlight s) :
    (terminal (decodeStage s.q (moved s)) = true ∨
      cyclesAtMost (decodeStage s.q (moved s)) + 1 ≤ cyclesAtMost s) ∧
    cyclesAtLeast s ≤ cyclesAtLeast (decodeStage s.q (moved s)) + 1 := by
  have hmoved := drainTime_moved hok
  have hfour := drainTime_le_four s
  obtain ⟨hstall, h⟩ | ⟨i, hq, _, h⟩ := decodeStage_moved_cases s.q s
  · rw [h]
    cases hq : s.q with
    | nil =>
      have hmovedq : (moved s).q = [] := hq
      refine ⟨?_, by simp only [cyclesAtLeast, hmovedq, hq, if_true]; omega⟩
      by_cases hdrain : drainTime (moved s) = 0
      · exact .inl ((terminal_iff_drained _).mpr ⟨hq, hdrain⟩)
      · refine .inr ?_
        simp only [cyclesAtMost, hmovedq, hq]
        omega
    | cons i rest =>
      have hmovedq : (moved s).q = i :: rest := hq
      have hpos := drainTime_moved_pos_of_stall hok hbusy (hstall i (by rw [hq]; rfl))
      refine ⟨.inr ?_, ?_⟩
      · simp only [cyclesAtMost, hmovedq, hq]
        omega
      · simp only [cyclesAtLeast, hmovedq, hq, reduceCtorEq, if_false]
        omega
  · obtain ⟨rest, hq⟩ := List.head?_eq_some_iff.mp hq
    have haccq : (accepted i s).q = rest := by simp [hq]
    have hdrain := drainTime_accepted i s
    have hle := decodedDrain_le_four (accepted i s).db
    have hge : 3 ≤ decodedDrain (accepted i s).db := three_le_decodedDrain _
    rw [h]
    refine ⟨.inr ?_, ?_⟩
    · simp only [cyclesAtMost, haccq, hq, List.length_cons]
      omega
    · simp only [cyclesAtLeast, haccq, hq, reduceCtorEq, if_false, List.length_cons]
      cases rest with
      | nil => simp only [if_true, List.length_nil]; omega
      | cons j rest => simp only [reduceCtorEq, if_false, List.length_cons]; omega

/-! ### A run, edge by edge -/

/-- A run of `N` instructions that has not ended: the cycles counted and those to come. -/
structure RunPhase (N : Nat) (s : State) : Prop where
  running : s.status = .run
  noReset : noReset s
  busy : BusyInFlight s
  small : N ≤ config.QCAP
  upper : s.cycleCount.toNat + cyclesAtMost s ≤ 4 * N + 1
  lower : N + 3 ≤ s.cycleCount.toNat + cyclesAtLeast s

/-- A run of `N` instructions that has ended in DONE. -/
structure DonePhase (N : Nat) (s : State) : Prop where
  done : s.status = .done
  noReset : noReset s
  upper : s.cycleCount.toNat ≤ 4 * N + 1
  lower : N + 3 ≤ s.cycleCount.toNat

theorem runPhase_of_initialState {s : State} (h : InitialState s) (hin : noReset s) :
    RunPhase s.q.length s := by
  have hdrain : drainTime s = 0 := (drainTime_eq_zero s).mpr h.slots
  refine ⟨h.running, hin, fun r hr => by simp [h.free r] at hr, h.capacity, ?_, ?_⟩
  · simp [h.cycleCount, cyclesAtMost, hdrain]
  · simp [h.cycleCount, cyclesAtLeast, h.queue]

/-- A counter far from its limit counts by one. -/
theorem satSucc_toNat_of_small {c : Counter} (h : c.toNat ≤ 65) :
    (satSucc c).toNat = c.toNat + 1 := by
  rw [satSucc_toNat]
  exact Nat.min_eq_left (le_trans (Nat.succ_le_succ h) (by decide))

/-- An edge of a run counts a cycle and goes on or ends in DONE, or it ends in FAULT. -/
theorem step_of_runPhase {N : Nat} {s t : State} (h : RunPhase N s) (ht : step s = .next t) :
    (RunPhase N t ∧ t.cycleCount.toNat = s.cycleCount.toNat + 1) ∨ DonePhase N t ∨
    t.status = .fault := by
  have hrst := rst_of_noReset h.noReset
  by_cases hfault : t.status = .fault
  · exact .inr (.inr hfault)
  have hok := noFaultNow_of_step_run hrst h.running ht hfault
  have hin := noReset_of_step h.noReset ht
  obtain ⟨hupper, hlower⟩ := bounds_of_committed (s := dropInput s) hok h.busy
  obtain rfl := eq_of_step_run_committed hrst h.running ht hfault
  have hsmall : s.cycleCount.toNat ≤ 65 := by
    have h16 : N ≤ 16 := h.small
    have := h.upper
    unfold cyclesAtMost at this
    omega
  have hcount : (finishCycle (decodeStage s.q (moved (dropInput s)))).cycleCount.toNat =
      s.cycleCount.toNat + 1 := by
    simp [satSucc_toNat_of_small hsmall]
  have hless : cyclesAtLeast s ≤
      cyclesAtLeast (finishCycle (decodeStage s.q (moved (dropInput s)))) + 1 := by
    rw [cyclesAtLeast_finishCycle]
    exact hlower
  have hbelow := h.upper
  have habove := h.lower
  cases hterm : terminal (decodeStage s.q (moved (dropInput s))) with
  | true =>
    have hend : cyclesAtLeast (finishCycle (decodeStage s.q (moved (dropInput s)))) = 0 :=
      cyclesAtLeast_of_terminal (by rw [terminal_finishCycle, hterm])
    refine .inr (.inl ⟨by simp [hterm], hin, ?_, by omega⟩)
    unfold cyclesAtMost at hbelow
    omega
  | false =>
    have hmore : cyclesAtMost (finishCycle (decodeStage s.q (moved (dropInput s)))) + 1 ≤
        cyclesAtMost s := by
      rw [cyclesAtMost_finishCycle]
      exact hupper.resolve_left (by rw [dropInput_q, hterm]; decide)
    have hlive : terminal (finishCycle (decodeStage s.q (moved (dropInput s)))) = false := by
      rw [terminal_finishCycle, hterm]
    exact .inl ⟨⟨committed_status h.running hlive, hin,
      busyInFlight_committed (s := dropInput s) hok h.busy s.q, h.small, by omega, by omega⟩,
      hcount⟩

/-- A run has at most as many edges to come as `4N + 1` leaves above `cycle_count`. -/
theorem runPhase_ends {N : Nat} :
    ∀ (n : Nat) {s : State}, RunPhase N s → 4 * N + 1 ≤ s.cycleCount.toNat + n →
      ∃ k t, k ≤ n ∧ steps k s = .next t ∧ (t.status = .done ∨ t.status = .fault)
  | 0, s, h, hn => by
    have hupper := h.upper
    unfold cyclesAtMost at hupper
    omega
  | n + 1, s, h, hn => by
    obtain ⟨t, ht⟩ := everyEdgeHasOneSuccessor s
    obtain ⟨hrun, hcount⟩ | hdone | hfault := step_of_runPhase h ht
    · obtain ⟨k, u, hk, hu, hend⟩ := runPhase_ends n hrun (by omega)
      exact ⟨k + 1, u, by omega, by rw [steps_succ ht, hu], hend⟩
    · exact ⟨1, t, by omega, steps_succ ht, .inl hdone.done⟩
    · exact ⟨1, t, by omega, steps_succ ht, .inr hfault⟩

/-- Settles O47: at the initial state no cycle has been counted. -/
theorem runEndsWithinBound : Obligations.RunEndsWithinBound := by
  intro s hinit hin
  exact runPhase_ends _ (runPhase_of_initialState hinit hin) (Nat.le_add_left _ _)

/-- What holds at first and over every edge holds after any number of them. -/
theorem steps_keep {P : State → Prop} (hstep : ∀ s t, P s → step s = .next t → P t) :
    ∀ (n : Nat) {s t : State}, P s → steps n s = .next t → P t
  | 0, s, t, h, ht => by
    obtain rfl : s = t := by simpa [steps] using ht
    exact h
  | n + 1, s, t, h, ht => by
    obtain ⟨u, hu⟩ := everyEdgeHasOneSuccessor s
    rw [steps_succ hu] at ht
    exact steps_keep hstep n (hstep s u h hu) ht

theorem step_keeps_donePhase {N : Nat} {s t : State} (h : DonePhase N s) (ht : step s = .next t) :
    DonePhase N t := by
  obtain rfl : dropInput s = t := Host.Outcome.next.inj
    ((step_done_or_fault (rst_of_noReset h.noReset) (.inl h.done)).symm.trans ht)
  exact ⟨h.done, noReset_of_step h.noReset ht, h.upper, h.lower⟩

/-- A run of `N` instructions before or after its end. -/
def Phase (N : Nat) (s : State) : Prop :=
  RunPhase N s ∨ DonePhase N s ∨ (s.status = .fault ∧ noReset s)

theorem step_keeps_phase {N : Nat} (s t : State) (h : Phase N s) (ht : step s = .next t) :
    Phase N t := by
  obtain h | h | ⟨hfault, hin⟩ := h
  · obtain ⟨hrun, _⟩ | hdone | hfault := step_of_runPhase h ht
    · exact .inl hrun
    · exact .inr (.inl hdone)
    · exact .inr (.inr ⟨hfault, noReset_of_step h.noReset ht⟩)
  · exact .inr (.inl (step_keeps_donePhase h ht))
  · obtain rfl : dropInput s = t := Host.Outcome.next.inj
      ((step_done_or_fault (rst_of_noReset hin) (.inr hfault)).symm.trans ht)
    exact .inr (.inr ⟨hfault, noReset_of_step hin ht⟩)

/-- Settles O48: every edge keeps the count within the bounds, and in DONE nothing is to come. -/
theorem doneRunCycleCount : Obligations.DoneRunCycleCount := by
  intro s k t hinit hin hsteps hdone
  obtain h | h | ⟨hfault, _⟩ :=
    steps_keep step_keeps_phase k (.inl (runPhase_of_initialState hinit hin)) hsteps
  · simp [h.running] at hdone
  · exact ⟨h.lower, h.upper⟩
  · simp [hfault] at hdone

end Sys2Proof.Proofs
end

section
/-! PROOFS. A hazard-free run leaves what sequential execution gives: the statement of
spec/70_reset_and_hazards.md R241. -/

namespace Sys2Proof.Proofs

open Sys2Proof Sys2Proof.Machine Sys2Proof.Laws

/-! ### The writes in flight -/

/-- The writes of this cycle's writeback: register and value. -/
def retiringWrites (s : State) : List (RegIdx × Word) :=
  (s.rsLd.map fun e => (e.rd, e.value)).toList ++ (s.rsAlu.map fun e => (e.rd, e.value)).toList

/-- What the instruction of an entry will write. -/
def entryWrite (mem : Memory) (e : Entry) : RegIdx × Word :=
  (e.instr.rd, seqValue e.instr e.op1 e.op2 mem)

/-- What a load past issue will write: the word at its effective address. -/
def loadWrite (mem : Memory) (rd : RegIdx) (addr : Word) : RegIdx × Word :=
  (rd, mem.read addr.toNat)

/-- The writes of the later cycles, by the instructions in `DB`, `AB`, `LB` and `ADR`. -/
def laterWrites (s : State) : List (RegIdx × Word) :=
  (s.db.map (entryWrite s.mem)).toList ++ (s.ab.map (entryWrite s.mem)).toList ++
    (s.lb.map fun e => loadWrite s.mem e.instr.rd (ea e.op1 e.op2)).toList ++
    (s.adr.map fun e => loadWrite s.mem e.rd e.addr).toList

/-- Every write still to come of an instruction past the queue. -/
def pendingWrites (s : State) : List (RegIdx × Word) := laterWrites s ++ retiringWrites s

/-- The ALU computes what the instruction means. -/
theorem alu_eq_seqValue {i : Instr} (h : i.op.isLoad = false) (a b : Word) (mem : Memory) :
    alu i.op a b = some (seqValue i a b mem) := by
  cases i with
  | ld d x y => simp [Instr.op, Opcode.isLoad] at h
  | _ => rfl

theorem entryWrite_of_load {e : Entry} (h : e.instr.op.isLoad = true) (mem : Memory) :
    entryWrite mem e = loadWrite mem e.instr.rd (ea e.op1 e.op2) := by
  obtain ⟨i, a, b⟩ := e
  cases i with
  | ld d x y => rfl
  | _ => simp [Instr.op, Opcode.isLoad] at h

/-- The stages before decode carry every later write on and perform the retiring ones. -/
theorem pendingWrites_moved {s : State} (hok : noFaultNow s) :
    (pendingWrites (moved s)).Perm (laterWrites s) := by
  have halu : ((moved s).rsAlu.map fun e => (e.rd, e.value)) = s.ab.map (entryWrite s.mem) := by
    cases hab : s.ab with
    | none => simp [moved, hab]
    | some e => simp [moved, hab, alu_eq_seqValue (hok.2 e hab) e.op1 e.op2 s.mem, entryWrite]
  have hld : ((moved s).rsLd.map fun e => (e.rd, e.value)) =
      s.adr.map fun e => loadWrite s.mem e.rd e.addr := by
    cases hadr : s.adr <;> simp [moved, hadr, loadWrite, memRead]
  have hadr : ((moved s).adr.map fun e => loadWrite s.mem e.rd e.addr) =
      s.lb.map fun e => loadWrite s.mem e.instr.rd (ea e.op1 e.op2) := by
    cases hlb : s.lb <;> simp [moved, hlb]
  have hissued : ((moved s).ab.map (entryWrite s.mem)).toList ++
      ((moved s).lb.map fun e => loadWrite s.mem e.instr.rd (ea e.op1 e.op2)).toList =
        (s.db.map (entryWrite s.mem)).toList := by
    cases hdb : s.db with
    | none => simp [moved, hdb]
    | some e =>
      cases hop : e.instr.op.isLoad with
      | false => simp [moved, hdb, hop, Option.filter]
      | true => simp [moved, hdb, hop, Option.filter, entryWrite_of_load hop]
  simp only [pendingWrites, laterWrites, retiringWrites, moved_mem, moved_db, halu, hld, hadr,
    Option.map_none, Option.toList_none, List.nil_append, hissued]
  generalize (s.db.map (entryWrite s.mem)).toList = db
  generalize (s.ab.map (entryWrite s.mem)).toList = ab
  generalize (s.lb.map fun e => loadWrite s.mem e.instr.rd (ea e.op1 e.op2)).toList = lb
  generalize (s.adr.map fun e => loadWrite s.mem e.rd e.addr).toList = adr
  calc (db ++ lb) ++ (adr ++ ab)
      _ = db ++ ((lb ++ adr) ++ ab) := by simp only [List.append_assoc]
      List.Perm _ (db ++ (ab ++ (lb ++ adr))) := List.perm_append_comm.append_left db
      _ = db ++ ab ++ lb ++ adr := by simp only [List.append_assoc]

theorem pendingWrites_accepted (i : Instr) (s : State) :
    pendingWrites (accepted i s) =
      (i.rd, seqValue i (regAfterWriteback s i.rs) (regAfterWriteback s i.rt) s.mem) ::
        pendingWrites (moved s) := rfl

/-! ### What writeback does, write by write -/

theorem retiring_iff (s : State) (r : RegIdx) :
    retiring s r = true ↔ r ∈ (retiringWrites s).map Prod.fst := by
  unfold retiring retiringWrites ResultEntry.names
  cases s.rsLd <;> cases s.rsAlu <;> simp [eq_comm (a := r)]

/-- A register that retires takes the value of one of its retiring writes. -/
theorem regAfterWriteback_of_mem {s : State} {r : RegIdx} (h : retiring s r = true) :
    (r, regAfterWriteback s r) ∈ retiringWrites s := by
  rw [retiring_iff] at h
  revert h
  unfold retiringWrites regAfterWriteback
  cases s.rsLd with
  | none => cases s.rsAlu <;> simp +contextual
  | some l =>
    cases s.rsAlu with
    | none => simp +contextual
    | some a =>
      by_cases ha : a.rd = r
      · simp [ha]
      · intro h
        obtain rfl : r = l.rd := by simpa [Ne.symm ha] using h
        simp [ha]

/-! ### The register values that the instructions taken so far give -/

/-- `x` is what the instructions past the queue, run one after another, leave in the registers: no
register has two writers in flight, the one it has is going to write `x` there, and a register
without one holds `x` already. A register with a writer in flight is busy. -/
structure Tracks (x : RegIdx → Word) (s : State) : Prop where
  unique : ((pendingWrites s).map Prod.fst).Nodup
  pending : ∀ c ∈ pendingWrites s, c.2 = x c.1
  settled : ∀ r, r ∉ (pendingWrites s).map Prod.fst → readReg s r = x r
  busy : ∀ r ∈ (pendingWrites s).map Prod.fst, isBusy s r = true

theorem tracks_moved {x : RegIdx → Word} {s : State} (h : Tracks x s) (hok : noFaultNow s) :
    Tracks x (moved s) := by
  have hperm := pendingWrites_moved hok
  have hregs : ∀ r, r ∈ (pendingWrites (moved s)).map Prod.fst ↔ r ∈ (laterWrites s).map Prod.fst :=
    fun r => (hperm.map Prod.fst).mem_iff
  have hunique := h.unique
  rw [pendingWrites, List.map_append, List.nodup_append'] at hunique
  obtain ⟨hlater, _, hdisjoint⟩ := hunique
  refine ⟨(hperm.map Prod.fst).nodup_iff.mpr hlater, fun c hc => ?_, fun r hr => ?_, fun r hr => ?_⟩
  · exact h.pending c (List.mem_append_left _ (hperm.mem_iff.mp hc))
  · rw [readReg_moved]
    cases hret : retiring s r with
    | true => exact h.pending _ (List.mem_append_right _ (regAfterWriteback_of_mem hret))
    | false =>
      rw [regAfterWriteback_of_not_retiring hret]
      refine h.settled r ?_
      rw [pendingWrites, List.map_append, List.mem_append, ← hregs, ← retiring_iff, hret]
      simp [hr]
  · have hin := (hregs r).mp hr
    have hret : retiring s r = false := by
      rw [Bool.eq_false_iff, Ne, retiring_iff]
      exact fun hr' => hdisjoint hin hr'
    rw [isBusy_moved, busyAfterWriteback_of_not_retiring hret]
    refine h.busy r ?_
    rw [pendingWrites, List.map_append]
    exact List.mem_append_left _ hin

/-- What one instruction more makes of the register values, as `seqRun` has it. -/
def seqStep (i : Instr) (x : RegIdx → Word) (mem : Memory) (r : RegIdx) : Word :=
  if r = i.rd then seqValue i (x i.rs) (x i.rt) mem else x r

theorem seqRun_cons (i : Instr) (rest : List Instr) (x : RegIdx → Word) (mem : Memory) :
    seqRun (i :: rest) x mem = seqRun rest (seqStep i x mem) mem := rfl

section Accept

variable {x : RegIdx → Word} {s : State} {i : Instr} (h : Tracks x (moved s))
  (hfree : sourcesFree i s = true)
include h hfree

/-- A register that is free when decode reads it has no writer in flight. -/
theorem source_not_pending {r : RegIdx} (hr : r = i.rs ∨ r = i.rt) :
    r ∉ (pendingWrites (moved s)).map Prod.fst := by
  intro hpending
  have hbusy := h.busy r hpending
  rw [isBusy_moved] at hbusy
  rcases hr with rfl | rfl <;> simp [sourcesFree, hbusy] at hfree

theorem operands_eq :
    regAfterWriteback s i.rs = x i.rs ∧ regAfterWriteback s i.rt = x i.rt := by
  constructor
  · rw [← readReg_moved]
    exact h.settled _ (source_not_pending h hfree (.inl rfl))
  · rw [← readReg_moved]
    exact h.settled _ (source_not_pending h hfree (.inr rfl))

/-- Decode of an instruction whose register has no writer in flight is one sequential step. -/
theorem tracks_accepted (hrd : i.rd ∉ (pendingWrites (moved s)).map Prod.fst) :
    Tracks (seqStep i x s.mem) (accepted i s) := by
  have hwrites : pendingWrites (accepted i s) =
      (i.rd, seqStep i x s.mem i.rd) :: pendingWrites (moved s) := by
    obtain ⟨hrs, hrt⟩ := operands_eq h hfree
    rw [pendingWrites_accepted, hrs, hrt, seqStep, if_pos rfl]
  refine ⟨?_, fun c hc => ?_, fun r hr => ?_, fun r hr => ?_⟩
  · rw [hwrites, List.map_cons, List.nodup_cons]
    exact ⟨hrd, h.unique⟩
  · rw [hwrites, List.mem_cons] at hc
    rcases hc with rfl | hc
    · rfl
    · have hne : c.1 ≠ i.rd := fun heq => hrd (heq ▸ List.mem_map_of_mem hc)
      rw [seqStep, if_neg hne]
      exact h.pending c hc
  · rw [hwrites, List.map_cons, List.mem_cons, not_or] at hr
    obtain ⟨hne, hr⟩ := hr
    rw [seqStep, if_neg hne, ← h.settled r hr]
    exact readReg_putBusy (popQueue (moved s)) i.rd r true
  · rw [hwrites, List.map_cons, List.mem_cons] at hr
    rw [isBusy_accepted]
    rcases hr with rfl | hr
    · exact if_pos rfl
    · have hbusy := h.busy r hr
      rw [isBusy_moved] at hbusy
      simp [hbusy]

end Accept

/-! ### The program still in the queue (R241) -/

/-- The instructions past the queue and those still in it lead, one after another, to `final`, and
the next write of every register with a writer in flight comes after a read of it. -/
structure Sequential (final : RegIdx → Word) (x : RegIdx → Word) (s : State) : Prop where
  tracks : Tracks x s
  result : seqRun s.q x s.mem = final
  hazardFree : hazardFree s.q = true
  readFirst : ∀ r ∈ (pendingWrites s).map Prod.fst, readBeforeRewrite r s.q = true

/-- The next instruction reads the register, or leaves it alone and so passes the condition on. -/
theorem readBeforeRewrite_cons {r : RegIdx} {i : Instr} {rest : List Instr}
    (h : readBeforeRewrite r (i :: rest) = true) :
    r = i.rs ∨ r = i.rt ∨ (i.rd ≠ r ∧ readBeforeRewrite r rest = true) := by
  simp only [readBeforeRewrite, Bool.or_eq_true, Bool.and_eq_true, beq_iff_eq, bne_iff_ne] at h
  rcases h with (hrs | hrt) | hpass
  · exact .inl hrs.symm
  · exact .inr (.inl hrt.symm)
  · exact .inr (.inr hpass)

theorem sequential_moved {final x : RegIdx → Word} {s : State} (h : Sequential final x s)
    (hok : noFaultNow s) : Sequential final x (moved s) :=
  { tracks := tracks_moved h.tracks hok
    result := h.result
    hazardFree := h.hazardFree
    readFirst := fun r hr => by
      refine h.readFirst r ?_
      rw [pendingWrites, List.map_append]
      exact List.mem_append_left _ (((pendingWrites_moved hok).map Prod.fst).mem_iff.mp hr) }

/-- In a hazard-free program the head does not write a register that has a writer in flight: it
would have to read it, and would stall. -/
theorem sequential_accepted {final x : RegIdx → Word} {s : State} {i : Instr}
    (h : Sequential final x (moved s)) (hq : s.q.head? = some i) (hfree : sourcesFree i s = true) :
    Sequential final (seqStep i x s.mem) (accepted i s) := by
  obtain ⟨rest, hq⟩ := List.head?_eq_some_iff.mp hq
  have hpassed : ∀ r ∈ (pendingWrites (moved s)).map Prod.fst,
      i.rd ≠ r ∧ readBeforeRewrite r rest = true := fun r hr => by
    have hcond := h.readFirst r hr
    rw [moved_q, hq] at hcond
    rcases readBeforeRewrite_cons hcond with hsrc | hsrc | hpass
    · exact absurd hr (source_not_pending h.tracks hfree (.inl hsrc))
    · exact absurd hr (source_not_pending h.tracks hfree (.inr hsrc))
    · exact hpass
  have hhazard : readBeforeRewrite i.rd rest = true ∧ hazardFree rest = true := by
    have hall := h.hazardFree
    rw [moved_q, hq] at hall
    simpa [Machine.hazardFree] using hall
  have haccq : (accepted i s).q = rest := by simp [hq]
  have hresult := h.result
  rw [moved_q, moved_mem, hq, seqRun_cons] at hresult
  refine ⟨tracks_accepted h.tracks hfree fun hrd => (hpassed _ hrd).1 rfl, ?_, ?_, fun r hr => ?_⟩
  · rw [haccq]
    exact hresult
  · rw [haccq]
    exact hhazard.2
  · rw [pendingWrites_accepted, List.map_cons, List.mem_cons] at hr
    rw [haccq]
    rcases hr with rfl | hr
    · exact hhazard.1
    · exact (hpassed r hr).2

/-- The end of a cycle and the inputs to come have no part in it. -/
theorem sequential_congr {final x : RegIdx → Word} {s t : State} (h : Sequential final x s)
    (hwrites : pendingWrites t = pendingWrites s) (hrf : t.rf = s.rf) (hq : t.q = s.q)
    (hmem : t.mem = s.mem) : Sequential final x t :=
  { tracks :=
      { unique := hwrites ▸ h.tracks.unique
        pending := hwrites ▸ h.tracks.pending
        settled := fun r hr => by
          rw [readReg_congr hrf]
          exact h.tracks.settled r (hwrites ▸ hr)
        busy := fun r hr => by
          rw [isBusy_congr hrf]
          exact h.tracks.busy r (hwrites ▸ hr) }
    result := by rw [hq, hmem]; exact h.result
    hazardFree := hq ▸ h.hazardFree
    readFirst := fun r hr => by
      rw [hq]
      exact h.readFirst r (hwrites ▸ hr) }

theorem pendingWrites_finishCycle (s : State) :
    pendingWrites (finishCycle s) = pendingWrites s := by
  simp [pendingWrites, laterWrites, retiringWrites]

theorem sequential_committed {final x : RegIdx → Word} {s : State} (h : Sequential final x s)
    (hok : noFaultNow s) :
    ∃ y, Sequential final y (finishCycle (decodeStage s.q (moved s))) := by
  have hmoved := sequential_moved h hok
  have hfinish : ∀ {y u}, Sequential final y u → Sequential final y (finishCycle u) :=
    fun {_ u} hu => sequential_congr hu (pendingWrites_finishCycle u) (finishCycle_rf u)
      (finishCycle_q u) (finishCycle_mem u)
  obtain ⟨_, hd⟩ | ⟨i, hq, hfree, hd⟩ := decodeStage_moved_cases s.q s
  · exact ⟨x, by rw [hd]; exact hfinish hmoved⟩
  · exact ⟨_, by rw [hd]; exact hfinish (sequential_accepted hmoved hq hfree)⟩

/-! ### A run, edge by edge -/

/-- A run towards `final`, before or after its end. -/
structure SequentialRun (final : RegIdx → Word) (s : State) : Prop where
  noReset : noReset s
  started : s.status ≠ .load
  doneTerminal : s.status = .done → terminal s = true
  sequential : s.status ≠ .fault → ∃ x, Sequential final x s

theorem sequentialRun_of_initialState {s : State} (h : InitialState s) (hin : noReset s)
    (hhaz : hazardFree s.q = true) : SequentialRun (seqRun s.q (readReg s) s.mem) s := by
  have hwrites : pendingWrites s = [] := by
    obtain ⟨hdb, hab, hlb, hadr, hld, halu⟩ := h.slots
    simp [pendingWrites, laterWrites, retiringWrites, *]
  refine ⟨hin, by simp [h.running], fun hs => by simp [h.running] at hs, fun _ =>
    ⟨readReg s, ⟨?_, ?_, fun _ _ => rfl, ?_⟩, rfl, hhaz, ?_⟩⟩ <;> simp [hwrites]

theorem step_keeps_sequentialRun {final : RegIdx → Word} (s t : State)
    (h : SequentialRun final s) (ht : step s = .next t) : SequentialRun final t := by
  have hrst := rst_of_noReset h.noReset
  have hin := noReset_of_step h.noReset ht
  obtain hrun | hidle := run_or_idle_of_not_load h.started
  · by_cases hfault : t.status = .fault
    · exact ⟨hin, by simp [hfault], by simp [hfault], fun hok => absurd hfault hok⟩
    · obtain ⟨x, hx⟩ := h.sequential (by simp [hrun])
      have hok := noFaultNow_of_step_run hrst hrun ht hfault
      obtain ⟨hhalt, hlive⟩ := haltExactlyAtTerminal s t hrun hrst ht hfault
      rw [← terminal_iff] at hhalt
      refine ⟨hin, by rcases hlive with hs | hs <;> simp [hs], hhalt.mp, fun _ => ?_⟩
      rw [eq_of_step_run_committed hrst hrun ht hfault]
      exact sequential_committed (s := dropInput s) (sequential_congr hx rfl rfl rfl rfl) hok
  · obtain rfl : dropInput s = t :=
      Host.Outcome.next.inj ((step_done_or_fault hrst hidle).symm.trans ht)
    refine ⟨hin, h.started, h.doneTerminal, fun hok => ?_⟩
    obtain ⟨x, hx⟩ := h.sequential hok
    exact ⟨x, sequential_congr hx rfl rfl rfl rfl⟩

/-- With nothing queued and nothing in flight the registers hold the final values. -/
theorem readReg_of_terminal {final x : RegIdx → Word} {s : State} (h : Sequential final x s)
    (hterm : terminal s = true) (r : RegIdx) : readReg s r = final r := by
  obtain ⟨hq, hdb, hab, hlb, hadr, hld, halu⟩ := (terminal_iff s).mp hterm
  have hwrites : pendingWrites s = [] := by
    simp [pendingWrites, laterWrites, retiringWrites, *]
  have hfinal : x = final := by
    have hresult := h.result
    rwa [hq] at hresult
  rw [← hfinal]
  exact h.tracks.settled r (by simp [hwrites])

/-- Settles O49: every edge keeps what the instructions past the queue and those in it will give,
and in DONE there are none left. -/
theorem hazardFreeRunIsSequential : Obligations.HazardFreeRunIsSequential := by
  intro s k t hinit hin hhaz hsteps hdone r
  have hrun := steps_keep (step_keeps_sequentialRun) k
    (sequentialRun_of_initialState hinit hin hhaz) hsteps
  obtain ⟨x, hx⟩ := hrun.sequential (by simp [hdone])
  exact readReg_of_terminal hx (hrun.doneTerminal hdone) r

end Sys2Proof.Proofs
end
